-- ==== Sys2Proof/Word.lean ====
section
/-! DEFINITION. The word types of the block (00_scope.md R10): 32-bit values, bytes, 64-bit counters. -/

namespace Sys2Proof

/-- `u32`: every register value, immediate, address and PC (R10). -/
abbrev Word := BitVec 32

/-- One byte of data memory (R50). -/
abbrev Byte := BitVec 8

/-- `u64`: the counters and the cycle numbers (R48). -/
abbrev Count := BitVec 64

/-- `s32(v)`: the two's-complement signed reading of a word (R10). -/
def s32 (v : Word) : Int := v.toInt

/-- `zext_N(v)` (R10): defined for completeness only, no rule of the block widens a field. -/
def zext32 {n : Nat} (v : BitVec n) : Word := v.zeroExtend 32

/-- `sext_N(v)` (R10): defined for completeness only. -/
def sext32 {n : Nat} (v : BitVec n) : Word := v.signExtend 32

end Sys2Proof
end

