-- ==== Sys2Proof/Config.lean ====
section
/-! DEFINITION. The parameters of the block (00_scope.md R8), the reference configuration (R9) and the one free
value of the spec: the bits of a float operation's NaN result (47_float_ops.md R266). -/

namespace Sys2Proof

/-- The five unit classes (30_encoding.md R88), in the order the phases visit them (R130, R140). -/
inductive UnitClass where
  | integer | adder | multiplier | divider | memory
  deriving DecidableEq, Repr

/-- The visiting order of R130, R140 and R150. -/
def UnitClass.all : List UnitClass := [.integer, .adder, .multiplier, .divider, .memory]

/-- The four reservation-station pools (10_state.md R36). -/
inductive Pool where
  | intRs | addRs | multRs | loadB
  deriving DecidableEq, Repr

/-- Every pool once. -/
def Pool.all : List Pool := [.intRs, .addRs, .multRs, .loadB]

/-- `pool(c)` (30_encoding.md R88). -/
def UnitClass.pool : UnitClass → Pool
  | .integer => .intRs
  | .adder => .addRs
  | .multiplier => .multRs
  | .divider => .multRs
  | .memory => .loadB

/-- One thing per unit class. -/
structure PerClass (α : Type) where
  integer : α
  adder : α
  multiplier : α
  divider : α
  memory : α
  deriving DecidableEq, Repr

def PerClass.get {α : Type} (x : PerClass α) : UnitClass → α
  | .integer => x.integer
  | .adder => x.adder
  | .multiplier => x.multiplier
  | .divider => x.divider
  | .memory => x.memory

def PerClass.set {α : Type} (x : PerClass α) (c : UnitClass) (v : α) : PerClass α :=
  match c with
  | .integer => { x with integer := v }
  | .adder => { x with adder := v }
  | .multiplier => { x with multiplier := v }
  | .divider => { x with divider := v }
  | .memory => { x with memory := v }

def PerClass.map {α β : Type} (f : α → β) (x : PerClass α) : PerClass β :=
  ⟨f x.integer, f x.adder, f x.multiplier, f x.divider, f x.memory⟩

/-- One thing per pool. -/
structure PerPool (α : Type) where
  intRs : α
  addRs : α
  multRs : α
  loadB : α
  deriving DecidableEq, Repr

def PerPool.get {α : Type} (x : PerPool α) : Pool → α
  | .intRs => x.intRs
  | .addRs => x.addRs
  | .multRs => x.multRs
  | .loadB => x.loadB

def PerPool.set {α : Type} (x : PerPool α) (p : Pool) (v : α) : PerPool α :=
  match p with
  | .intRs => { x with intRs := v }
  | .addRs => { x with addRs := v }
  | .multRs => { x with multRs := v }
  | .loadB => { x with loadB := v }

def PerPool.map {α β : Type} (f : α → β) (x : PerPool α) : PerPool β :=
  ⟨f x.intRs, f x.addRs, f x.multRs, f x.loadB⟩

/-- The opcodes of the float family, as `FP_NAN` sees them (47_float_ops.md R266). -/
inductive FloatOp where
  | adds | subs | mults | divs
  deriving DecidableEq, Repr

/-- FREE VALUE (log entry 6): the word a float operation answers when IEEE 754 gives a NaN. No body: nothing is known
of it but that it depends on the opcode and the two operand words (R266: "the spec does not fix which NaN pattern,
payload or sign is produced"). -/
opaque Config.freeNan : FloatOp → Word → Word → Word

/-- How a configuration gives `FP_NAN` (R8): a constant, as `CFG_REF` does (R9), or the unconstrained function. -/
inductive NanRule where
  | constant (w : Word)
  | free
  deriving DecidableEq, Repr

/-- `FP_NAN(op, a, b)` (R8, R266). -/
def NanRule.apply : NanRule → FloatOp → Word → Word → Word
  | .constant w, _, _, _ => w
  | .free, op, a, b => Config.freeNan op a b

/-- The parameters of R8 but for `PROG` and the launch values. `BYPASS_SIZE` is derived: `RS_SIZE[LOAD_B]`. -/
structure Config where
  issueWidth : Nat
  robSize : Nat
  rsSize : PerPool Nat
  lanes : PerClass Nat
  lat : PerClass Nat
  memSize : Nat
  base : Word
  divSigned : Bool
  fpNan : NanRule
  deriving DecidableEq, Repr

/-- `BYPASS_SIZE` (R8, R43). -/
def Config.bypassSize (c : Config) : Nat := c.rsSize.get .loadB

/-- `CFG_REF` (R9). -/
def Config.ref : Config where
  issueWidth := 4
  robSize := 8
  rsSize := ⟨4, 2, 2, 4⟩
  lanes := ⟨2, 1, 1, 1, 1⟩
  lat := ⟨1, 2, 4, 8, 2⟩
  memSize := 256
  base := 0
  divSigned := true
  fpNan := .constant 0x7FC00000#32

end Sys2Proof
end

