-- ==== Sys2Proof/Syntax.lean ====
section
/-! DEFINITION. The instruction set (30_encoding.md R86): one constructor of `Instr` per opcode, with the operands its
form gives it (R83), and the record the block is handed for each instruction (R81). -/

namespace Sys2Proof

/-- A register number (R81: `reg : 0..31`). -/
abbrev Reg := Fin 32

/-- The two banks (10_state.md R21, R22). -/
inductive Bank where
  | int | float
  deriving DecidableEq, Repr

/-- A register of either bank: `REG(f, i)` of 00_scope.md R11. -/
inductive RegName where
  | gpr (i : Reg)
  | fpr (i : Reg)
  deriving DecidableEq, Repr

/-- One operand slot of a record (R81): number, is-float flag, validity flag. -/
structure Slot where
  reg : Reg
  f : Bool
  v : Bool
  deriving DecidableEq, Repr

/-- A decoded static instruction (R80, R81), with the reserved bits of its control word (R82). -/
structure Record where
  op : BitVec 5
  dst : Slot
  src1 : Slot
  src2 : Slot
  isLoad : Bool
  isStore : Bool
  isBranch : Bool
  reserved : BitVec 3
  imm : Word
  pc : Word
  deriving DecidableEq, Repr

/-- The record with every field 0: what a free slot holds after reset (R55; in a ROB slot DESIGN CHOICE, log entry 10). -/
def Record.zero : Record :=
  ⟨0, ⟨0, false, false⟩, ⟨0, false, false⟩, ⟨0, false, false⟩, false, false, false, 0, 0, 0⟩

/-- The instructions (R86). Operand order is that of the assembler syntax (R93); a label is its resolved `imm`. -/
inductive Instr where
  | lw (rt rs : Reg) (imm : Word)
  | sw (rt rs : Reg) (imm : Word)
  | add (rd rs rt : Reg)
  | addi (rd rs : Reg) (imm : Word)
  | sub (rd rs rt : Reg)
  | subi (rd rs : Reg) (imm : Word)
  | xor (rd rs rt : Reg)
  | xori (rd rs : Reg) (imm : Word)
  | or (rd rs rt : Reg)
  | ori (rd rs : Reg) (imm : Word)
  | and (rd rs rt : Reg)
  | andi (rd rs : Reg) (imm : Word)
  | mult (rd rs rt : Reg)
  | div (rd rs rt : Reg)
  | beqz (rs : Reg) (imm : Word)
  | bnez (rs : Reg) (imm : Word)
  | bltz (rs : Reg) (imm : Word)
  | bgtz (rs : Reg) (imm : Word)
  | blez (rs : Reg) (imm : Word)
  | bgez (rs : Reg) (imm : Word)
  | jump (imm : Word)
  | eop
  | lws (ft rs : Reg) (imm : Word)
  | sws (ft rs : Reg) (imm : Word)
  | adds (fd fs ft : Reg)
  | subs (fd fs ft : Reg)
  | mults (fd fs ft : Reg)
  | divs (fd fs ft : Reg)
  deriving DecidableEq, Repr

/-- The ten operand forms (R83); `bare` is the table's NONE. -/
inductive Form where
  | rrrInt | rriInt | rrrFp | loadInt | loadFp | storeInt | storeFp | branch | jump | bare
  deriving DecidableEq, Repr

end Sys2Proof
end

