-- ==== Sys2Proof/WellFormed.lean ====
section
/-! DEFINITION. The checks a configuration (00_scope.md R8), a launch (93 U17, U18) and a record (30_encoding.md R89)
must pass. Every check has a name of its own; Sys2Proof/Tests/Slice0.lean shows an ill-formed term for each. -/

namespace Sys2Proof

/-- Which bank a slot lies in, or that it is invalid, for the three slots of a form. -/
structure Signature where
  dst : Option Bank
  src1 : Option Bank
  src2 : Option Bank
  deriving DecidableEq, Repr

/-- The signature of each form (R83). -/
def Form.signature : Form → Signature
  | .rrrInt => ⟨some .int, some .int, some .int⟩
  | .rriInt => ⟨some .int, some .int, none⟩
  | .rrrFp => ⟨some .float, some .float, some .float⟩
  | .loadInt => ⟨some .int, some .int, none⟩
  | .loadFp => ⟨some .float, some .int, none⟩
  | .storeInt => ⟨none, some .int, some .int⟩
  | .storeFp => ⟨none, some .int, some .float⟩
  | .branch => ⟨none, some .int, none⟩
  | .jump => ⟨none, none, none⟩
  | .bare => ⟨none, none, none⟩

/-- A slot fits its form: `v` says whether the form uses it, and `f` is the form's bank where it does (R89 check 3).
For an invalid slot `reg` and `f` are ignored (R83, R91). -/
def Slot.fits (s : Slot) : Option Bank → Bool
  | none => !s.v
  | some .int => s.v && !s.f
  | some .float => s.v && s.f

/-- R89 check 2. -/
def Record.reservedOk (r : Record) : Bool := r.reserved == 0

/-- R89 check 3. -/
def Record.slotsOk (r : Record) (g : Signature) : Bool :=
  r.dst.fits g.dst && r.src1.fits g.src1 && r.src2.fits g.src2

/-- R89 check 4. -/
def Record.flagsOk (r : Record) (isLoad isStore isBranch : Bool) : Bool :=
  r.isLoad == isLoad && r.isStore == isStore && r.isBranch == isBranch

/-- R89 check 5. -/
def Record.pcOk (r : Record) (fetchPc : Word) : Bool := r.pc == fetchPc

/-- R8: each pool has an entry. -/
def Config.poolsOk (c : Config) : Bool :=
  decide (1 ≤ c.rsSize.intRs) && decide (1 ≤ c.rsSize.addRs) && decide (1 ≤ c.rsSize.multRs)
    && decide (1 ≤ c.rsSize.loadB)

/-- R8: a count of one or more in each class. -/
def PerClass.allPos (x : PerClass Nat) : Bool :=
  decide (1 ≤ x.integer) && decide (1 ≤ x.adder) && decide (1 ≤ x.multiplier) && decide (1 ≤ x.divider)
    && decide (1 ≤ x.memory)

/-- R8: `MEM_SIZE` is a multiple of 4 with `4 <= MEM_SIZE <= 2^32`. -/
def Config.memSizeOk (c : Config) : Bool :=
  c.memSize % 4 == 0 && decide (4 ≤ c.memSize) && decide (c.memSize ≤ 2 ^ 32)

/-- R8: `BASE` is a multiple of 4. -/
def Config.baseOk (c : Config) : Bool := c.base.toNat % 4 == 0

/-- The constraints of R8 on a configuration. One that breaks them is refused (93 U17). -/
def Config.wf (c : Config) : Bool :=
  decide (1 ≤ c.issueWidth) && decide (1 ≤ c.robSize) && c.poolsOk && c.lanes.allPos && c.lat.allPos
    && c.memSizeOk && c.baseOk

end Sys2Proof
end

