-- ==== Sys2Proof/Decode.lean ====
section
/-! DEFINITION. The decoder, total on every 96-bit word (30_encoding.md R82, R86, R87, R89), and the encoder. -/

namespace Sys2Proof

/-- Why the decoder rejects a record (R89). -/
inductive DecodeError where
  /-- `op` is not in `0..27` (R89 check 1, R303). -/
  | unknownOpcode
  /-- The opcode is known and another field breaks the table (R89 checks 2 to 5, R304). -/
  | illegalRecord
  deriving DecidableEq, Repr

/-! ## The bit layout (R82) -/

/-- One bit of a word as a flag. -/
def flagAt (w : BitVec 96) (i : Nat) : Bool := w.getLsbD i

/-- A register-number field. -/
def regAt (w : BitVec 96) (i : Nat) : Reg := (w.extractLsb' i 5).toFin

/-- An operand slot whose number field starts at bit `i`: `f` and `v` follow it (R82). -/
def slotAt (w : BitVec 96) (i : Nat) : Slot := ⟨regAt w i, flagAt w (i + 5), flagAt w (i + 6)⟩

/-- The fields of `W = pc ++ imm ++ CTL` (R82). -/
def unpack (w : BitVec 96) : Record where
  op := w.extractLsb' 0 5
  dst := slotAt w 5
  src1 := slotAt w 12
  src2 := slotAt w 19
  isLoad := flagAt w 26
  isStore := flagAt w 27
  isBranch := flagAt w 28
  reserved := w.extractLsb' 29 3
  imm := w.extractLsb' 32 32
  pc := w.extractLsb' 64 32

/-- A slot as seven bits: `v ++ f ++ reg` (R82). -/
def Slot.bits (s : Slot) : BitVec 7 := BitVec.ofBool s.v ++ BitVec.ofBool s.f ++ BitVec.ofFin (w := 5) s.reg

/-- The control word `CTL` (R82). -/
def Record.ctl (r : Record) : Word :=
  r.reserved ++ BitVec.ofBool r.isBranch ++ BitVec.ofBool r.isStore ++ BitVec.ofBool r.isLoad
    ++ r.src2.bits ++ r.src1.bits ++ r.dst.bits ++ r.op

/-- `W = pc ++ imm ++ CTL` (R82). -/
def pack (r : Record) : BitVec 96 := r.pc ++ r.imm ++ r.ctl

/-! ## The opcode map (R86) -/

/-- One row of the opcode map. `cls` is none for `EOP`, which has no class. -/
structure OpRow where
  code : Nat
  mnemonic : String
  form : Form
  cls : Option UnitClass
  isLoad : Bool
  isStore : Bool
  isBranch : Bool
  deriving DecidableEq, Repr

/-- A row of the map that is neither a load nor a store nor a branch. -/
def OpRow.plain (code : Nat) (m : String) (form : Form) (cls : Option UnitClass) : OpRow :=
  ⟨code, m, form, cls, false, false, false⟩

/-- The rows of codes 0 to 13. -/
def opRowsLow : List OpRow :=
  [⟨0, "LW", .loadInt, some .memory, true, false, false⟩,
   ⟨1, "SW", .storeInt, some .memory, false, true, false⟩,
   .plain 2 "ADD" .rrrInt (some .integer),
   .plain 3 "ADDI" .rriInt (some .integer),
   .plain 4 "SUB" .rrrInt (some .integer),
   .plain 5 "SUBI" .rriInt (some .integer),
   .plain 6 "XOR" .rrrInt (some .integer),
   .plain 7 "XORI" .rriInt (some .integer),
   .plain 8 "OR" .rrrInt (some .integer),
   .plain 9 "ORI" .rriInt (some .integer),
   .plain 10 "AND" .rrrInt (some .integer),
   .plain 11 "ANDI" .rriInt (some .integer),
   .plain 12 "MULT" .rrrInt (some .multiplier),
   .plain 13 "DIV" .rrrInt (some .divider)]

/-- The rows of codes 14 to 27. -/
def opRowsHigh : List OpRow :=
  [⟨14, "BEQZ", .branch, some .integer, false, false, true⟩,
   ⟨15, "BNEZ", .branch, some .integer, false, false, true⟩,
   ⟨16, "BLTZ", .branch, some .integer, false, false, true⟩,
   ⟨17, "BGTZ", .branch, some .integer, false, false, true⟩,
   ⟨18, "BLEZ", .branch, some .integer, false, false, true⟩,
   ⟨19, "BGEZ", .branch, some .integer, false, false, true⟩,
   ⟨20, "JUMP", .jump, some .integer, false, false, true⟩,
   .plain 21 "EOP" .bare none,
   ⟨22, "LWS", .loadFp, some .memory, true, false, false⟩,
   ⟨23, "SWS", .storeFp, some .memory, false, true, false⟩,
   .plain 24 "ADDS" .rrrFp (some .adder),
   .plain 25 "SUBS" .rrrFp (some .adder),
   .plain 26 "MULTS" .rrrFp (some .multiplier),
   .plain 27 "DIVS" .rrrFp (some .divider)]

/-- The opcode map, in code order (R86). -/
def opTable : List OpRow := opRowsLow ++ opRowsHigh

/-- The single lookup of R87. None for the reserved codes 28 to 31. -/
def opRow? (op : BitVec 5) : Option OpRow := opTable[op.toNat]?

/-- `class(op)` (R88). -/
def Record.unitClass? (r : Record) : Option UnitClass := (opRow? r.op).bind OpRow.cls

/-- `is_store(op)`: by the table, from the opcode alone (R87). -/
def Record.opIsStore (r : Record) : Bool := (opRow? r.op).any OpRow.isStore

/-- `is_branch(op)`: by the table, from the opcode alone (R87). -/
def Record.opIsBranch (r : Record) : Bool := (opRow? r.op).any OpRow.isBranch

/-! ## The record check and the decoder -/

/-- The record check (R89), in its order: none where the record passes. -/
def Record.check (r : Record) (fetchPc : Word) : Option DecodeError :=
  match opRow? r.op with
  | none => some .unknownOpcode
  | some row =>
    if r.reservedOk && r.slotsOk row.form.signature && r.flagsOk row.isLoad row.isStore row.isBranch
        && r.pcOk fetchPc then
      none
    else
      some .illegalRecord

/-- The instruction a record's opcode names, with the record's operand fields (R86, R93). The opcode alone decides it
(R87), so it is also the reading of a record already in flight. -/
def Record.instr? (r : Record) : Option Instr :=
  match r.op.toNat with
  | 0 => some (.lw r.dst.reg r.src1.reg r.imm)
  | 1 => some (.sw r.src2.reg r.src1.reg r.imm)
  | 2 => some (.add r.dst.reg r.src1.reg r.src2.reg)
  | 3 => some (.addi r.dst.reg r.src1.reg r.imm)
  | 4 => some (.sub r.dst.reg r.src1.reg r.src2.reg)
  | 5 => some (.subi r.dst.reg r.src1.reg r.imm)
  | 6 => some (.xor r.dst.reg r.src1.reg r.src2.reg)
  | 7 => some (.xori r.dst.reg r.src1.reg r.imm)
  | 8 => some (.or r.dst.reg r.src1.reg r.src2.reg)
  | 9 => some (.ori r.dst.reg r.src1.reg r.imm)
  | 10 => some (.and r.dst.reg r.src1.reg r.src2.reg)
  | 11 => some (.andi r.dst.reg r.src1.reg r.imm)
  | 12 => some (.mult r.dst.reg r.src1.reg r.src2.reg)
  | 13 => some (.div r.dst.reg r.src1.reg r.src2.reg)
  | 14 => some (.beqz r.src1.reg r.imm)
  | 15 => some (.bnez r.src1.reg r.imm)
  | 16 => some (.bltz r.src1.reg r.imm)
  | 17 => some (.bgtz r.src1.reg r.imm)
  | 18 => some (.blez r.src1.reg r.imm)
  | 19 => some (.bgez r.src1.reg r.imm)
  | 20 => some (.jump r.imm)
  | 21 => some .eop
  | 22 => some (.lws r.dst.reg r.src1.reg r.imm)
  | 23 => some (.sws r.src2.reg r.src1.reg r.imm)
  | 24 => some (.adds r.dst.reg r.src1.reg r.src2.reg)
  | 25 => some (.subs r.dst.reg r.src1.reg r.src2.reg)
  | 26 => some (.mults r.dst.reg r.src1.reg r.src2.reg)
  | 27 => some (.divs r.dst.reg r.src1.reg r.src2.reg)
  | _ => none

/-- Decoding the word fetched at `fetchPc`: the record check, then the instruction. -/
def decode (w : BitVec 96) (fetchPc : Word) : Except DecodeError Instr :=
  match (unpack w).check fetchPc with
  | some e => .error e
  | none =>
    match (unpack w).instr? with
    | some i => .ok i
    | none => .error .unknownOpcode

/-! ## The encoder -/

/-- A slot in use. -/
def Slot.gpr (i : Reg) : Slot := ⟨i, false, true⟩

def Slot.fpr (i : Reg) : Slot := ⟨i, true, true⟩

/-- A slot the form does not use; its ignored bits are written 0 (R91). -/
def Slot.unused : Slot := ⟨0, false, false⟩

/-- A record with no flag set and no immediate. -/
def Record.make (code : BitVec 5) (dst src1 src2 : Slot) (pc : Word) : Record :=
  ⟨code, dst, src1, src2, false, false, false, 0, 0, pc⟩

def Record.rrr (code : BitVec 5) (rd rs rt : Reg) (pc : Word) : Record :=
  .make code (.gpr rd) (.gpr rs) (.gpr rt) pc

def Record.rri (code : BitVec 5) (rd rs : Reg) (imm : Word) (pc : Word) : Record :=
  { Record.make code (.gpr rd) (.gpr rs) .unused pc with imm := imm }

def Record.rrrFp (code : BitVec 5) (fd fs ft : Reg) (pc : Word) : Record :=
  .make code (.fpr fd) (.fpr fs) (.fpr ft) pc

def Record.load (code : BitVec 5) (dst : Slot) (rs : Reg) (imm : Word) (pc : Word) : Record :=
  { Record.make code dst (.gpr rs) .unused pc with imm := imm, isLoad := true }

def Record.store (code : BitVec 5) (data : Slot) (rs : Reg) (imm : Word) (pc : Word) : Record :=
  { Record.make code .unused (.gpr rs) data pc with imm := imm, isStore := true }

def Record.branch (code : BitVec 5) (src1 : Slot) (imm : Word) (pc : Word) : Record :=
  { Record.make code .unused src1 .unused pc with imm := imm, isBranch := true }

/-- The record of an instruction at address `pc`, its ignored fields 0 (R83, R86). -/
def Instr.record (i : Instr) (pc : Word) : Record :=
  match i with
  | .lw rt rs imm => .load 0 (.gpr rt) rs imm pc
  | .sw rt rs imm => .store 1 (.gpr rt) rs imm pc
  | .add rd rs rt => .rrr 2 rd rs rt pc
  | .addi rd rs imm => .rri 3 rd rs imm pc
  | .sub rd rs rt => .rrr 4 rd rs rt pc
  | .subi rd rs imm => .rri 5 rd rs imm pc
  | .xor rd rs rt => .rrr 6 rd rs rt pc
  | .xori rd rs imm => .rri 7 rd rs imm pc
  | .or rd rs rt => .rrr 8 rd rs rt pc
  | .ori rd rs imm => .rri 9 rd rs imm pc
  | .and rd rs rt => .rrr 10 rd rs rt pc
  | .andi rd rs imm => .rri 11 rd rs imm pc
  | .mult rd rs rt => .rrr 12 rd rs rt pc
  | .div rd rs rt => .rrr 13 rd rs rt pc
  | .beqz rs imm => .branch 14 (.gpr rs) imm pc
  | .bnez rs imm => .branch 15 (.gpr rs) imm pc
  | .bltz rs imm => .branch 16 (.gpr rs) imm pc
  | .bgtz rs imm => .branch 17 (.gpr rs) imm pc
  | .blez rs imm => .branch 18 (.gpr rs) imm pc
  | .bgez rs imm => .branch 19 (.gpr rs) imm pc
  | .jump imm => .branch 20 .unused imm pc
  | .eop => .make 21 .unused .unused .unused pc
  | .lws ft rs imm => .load 22 (.fpr ft) rs imm pc
  | .sws ft rs imm => .store 23 (.fpr ft) rs imm pc
  | .adds fd fs ft => .rrrFp 24 fd fs ft pc
  | .subs fd fs ft => .rrrFp 25 fd fs ft pc
  | .mults fd fs ft => .rrrFp 26 fd fs ft pc
  | .divs fd fs ft => .rrrFp 27 fd fs ft pc

/-- An instruction is well formed when its record passes the record check at its own address (R89). The operand types
(5-bit numbers, 32-bit immediates) already bound every field, so the check refuses none; the ill-formed terms of this
instruction set are records (`Record.check`). -/
def Instr.wf (i : Instr) : Bool := ((i.record 0).check 0).isNone

/-- The 96-bit word of an instruction at address `pc` (R82). -/
def encode (i : Instr) (pc : Word) : BitVec 96 := pack (i.record pc)

/-- The control word of an instruction: what the opcode table's match and mask describe. -/
def encodeCtl (i : Instr) : Word := (i.record 0).ctl

/-- The host's reading of a table word: the instruction whose low `nbits` bits are `w`, every bit above them 0, read as
the record at the address its own `pc` field names. -/
def decodeTableWord (nbits w : Nat) : Option Instr :=
  let word := BitVec.ofNat 96 (w % 2 ^ nbits)
  match decode word (unpack word).pc with
  | .ok i => some i
  | .error _ => none

end Sys2Proof
end

