-- ==== Sys2Proof/Machine/State.lean ====
section
/-! DEFINITION. The state of the block (10_state.md R20 to R55), as plain data, and its reset value (R55, R330). -/

namespace Sys2Proof.Machine

/-! ## Why a step stops

The spec's own faults are STATE (R47, R301): raising one is a next state. So the two types below hold only what the
spec says a model rejects before running, and raw data that is no state of the block. -/

/-- The machine stops. No meaning raises this; only `step` does. -/
inductive Fault where
  /-- Raised by `step` on raw data outside the ranges R20 to R50 declare (an index past its array, a tag of
  `ROB_SIZE` or more, a memory list not in canonical form): no state of the block. SAFE: no run from a launch reaches
  it. DESIGN CHOICE, log entry 4. -/
  | malformedState
  deriving DecidableEq, Repr

/-- No meaning is given. -/
inductive Refusal where
  /-- Raised by a dispatch arm whose instruction has no meaning yet. SAFE. No arm of this model does. -/
  | notModelled (mnemonic : String)
  /-- Raised by `step` when the configuration breaks 00_scope.md R8 (93 U17: "refuse"). SAFE. -/
  | badConfiguration
  /-- Raised by `step` when no program is loaded, `PROG_LEN = 0` (93 U18: "refuse"). SAFE. -/
  | emptyProgram
  deriving DecidableEq, Repr

/-! ## Pieces of state -/

/-- A register entry (R21, R22). -/
structure RegEntry where
  value : Word
  busy : Bool
  tag : Nat
  deriving DecidableEq, Repr

/-- A bank of 32 entries. -/
abbrev RegBank := Vector RegEntry 32

/-- The stage marker of a ROB slot (R31). -/
inductive Stage where
  | issue | execute | writeResult | commit
  deriving DecidableEq, Repr

/-- `ts[stage]` (R31). -/
structure Stamps where
  issue : Count
  execute : Count
  writeResult : Count
  commit : Count
  deriving DecidableEq, Repr

/-- A reorder-buffer slot (R31). `instr` is the owning instruction's record. -/
structure RobSlot where
  live : Bool
  instr : Record
  ready : Bool
  value : Word
  addr : Word
  addrKnown : Bool
  misPred : Bool
  stctr : Option Nat
  stage : Stage
  ts : Stamps
  deriving DecidableEq, Repr

/-- A ROB slot after reset (R55). -/
def RobSlot.empty : RobSlot := ⟨false, Record.zero, false, 0, 0, false, false, none, .issue, ⟨0, 0, 0, 0⟩⟩

/-- The reorder buffer (R30): a ring addressed by tag. -/
structure Rob where
  slots : List RobSlot
  head : Nat
  tail : Nat
  count : Nat
  deriving DecidableEq, Repr

/-- A renamed operand (R37): a value, or a tag to wait on. -/
structure Operand where
  ready : Bool
  value : Word
  tag : Nat
  deriving DecidableEq, Repr

/-- A reservation-station entry (R37). -/
structure RsEntry where
  busy : Bool
  instr : Record
  op1 : Operand
  op2 : Operand
  tagD : Nat
  addr : Word
  addrKnown : Bool
  inExec : Bool
  id : Nat
  remove : Bool
  deriving DecidableEq, Repr

/-- A reservation-station entry after reset (R55). -/
def RsEntry.empty : RsEntry :=
  ⟨false, Record.zero, ⟨false, 0, 0⟩, ⟨false, 0, 0⟩, 0, 0, false, false, 0, false⟩

/-- `(pool, index)`: a reference to a reservation-station entry (R40). -/
structure RsRef where
  pool : Pool
  idx : Nat
  deriving DecidableEq, Repr

/-- A timed lane (R40). -/
structure Lane where
  busy : Bool
  rs : RsRef
  ttl : Nat
  result : Word
  misPred : Bool
  done : Bool
  deriving DecidableEq, Repr

/-- A lane after reset (R55; its `rs`: DESIGN CHOICE, log entry 10). -/
def Lane.empty : Lane := ⟨false, ⟨.intRs, 0⟩, 0, 0, false, false⟩

/-- A bypass slot (R43). -/
structure BypSlot where
  busy : Bool
  rs : RsRef
  result : Word
  done : Bool
  deriving DecidableEq, Repr

/-- A bypass slot after reset (R55; its `rs`: DESIGN CHOICE, log entry 10). -/
def BypSlot.empty : BypSlot := ⟨false, ⟨.intRs, 0⟩, 0, false⟩

/-- A slot that writeback visits (R150): a timed lane or a bypass slot. -/
inductive SlotRef where
  | timed (c : UnitClass) (j : Nat)
  | bypass (j : Nat)
  deriving DecidableEq, Repr

/-- The codes of `FAULT` (R300). -/
inductive FaultCode where
  | noFault | fetchOob | unknownOpcode | illegalRecord | memStructural | robUnderflow | disambigScan
  | memMisaligned | memOutOfRange | divFault
  deriving DecidableEq, Repr

/-- The number `FAULT` holds (R300). -/
def FaultCode.code : FaultCode → Nat
  | .noFault => 0
  | .fetchOob => 1
  | .unknownOpcode => 2
  | .illegalRecord => 3
  | .memStructural => 4
  | .robUnderflow => 5
  | .disambigScan => 6
  | .memMisaligned => 7
  | .memOutOfRange => 8
  | .divFault => 9

/-- A phase of the cycle (R16, R180) and the slot it visits: the MODEL's own field (DESIGN CHOICE, log entry 1). -/
inductive Phase where
  /-- C: the ROB head's turn (R160). Between steps the machine rests here. -/
  | commit
  /-- W: the turn of the instruction whose done slot this is (R150). -/
  | writeback (l : SlotRef)
  /-- X1: the turn of entry `k` of `LOAD_B` (R122). -/
  | address (k : Nat)
  /-- X2: the turn of this entry (R130). -/
  | dispatch (e : RsRef)
  /-- X3: the turn of the instruction in lane `j` of class `c` (R140). -/
  | complete (c : UnitClass) (j : Nat)
  /-- I: the turn of the instruction fetched as record `r` (R103). -/
  | issue (r : Record)
  /-- I has stopped; F follows (R181). -/
  | finalize
  deriving DecidableEq, Repr

/-- Whose turn it is, with the local variables the phases' pseudocode keeps: `memTimedIssued` (R130), `memDone` (R140)
and `n` (R103). The MODEL's own field (DESIGN CHOICE, log entry 1). -/
structure Turn where
  phase : Phase
  memTimedIssued : Bool
  memDone : Nat
  issued : Nat
  deriving DecidableEq, Repr

/-- The turn between steps. -/
def Turn.start : Turn := ⟨.commit, false, 0, 0⟩

/-- Data memory as listed bytes, addresses strictly rising, no byte listed that equals `Memory.unlisted`. -/
abbrev Memory := List Host.Cell

/-- What an unlisted byte of `MEM` reads as (DESIGN CHOICE, log entry 8): 0, as `CFG_REF` launches it (R9). -/
def Memory.unlisted : Byte := 0

/-! ## The state -/

/-- The state of the block (R20), with its parameters (R8) and program held beside it (DESIGN CHOICE, log entry 5). -/
structure State where
  cfg : Config
  prog : List (BitVec 96)
  gpr : RegBank
  fpr : RegBank
  pc : Word
  rob : Rob
  rs : PerPool (List RsEntry)
  lanes : PerClass (List Lane)
  byp : List BypSlot
  memBlock : Bool
  mem : Memory
  cycle : Count
  committed : Count
  nextId : Nat
  fault : FaultCode
  faultPc : Word
  faultAddr : Word
  turn : Turn
  deriving DecidableEq, Repr

/-- A bank as a launch leaves it: the given values, not busy, tag 0 (R55). -/
def RegBank.launch (init : Reg → Word) : RegBank := Vector.ofFn fun i => ⟨init i, false, 0⟩

/-- A launch (R330): the host's configuration, program, register values and memory image, and every other piece of
state at its reset value (R55). -/
def State.launch (cfg : Config) (prog : List (BitVec 96)) (initGpr initFpr : Reg → Word) (initMem : Memory) : State where
  cfg := cfg
  prog := prog
  gpr := RegBank.launch initGpr
  fpr := RegBank.launch initFpr
  pc := cfg.base
  rob := ⟨List.replicate cfg.robSize RobSlot.empty, 0, 0, 0⟩
  rs := cfg.rsSize.map fun n => List.replicate n RsEntry.empty
  lanes := cfg.lanes.map fun n => List.replicate n Lane.empty
  byp := List.replicate cfg.bypassSize BypSlot.empty
  memBlock := false
  mem := initMem
  cycle := 0
  committed := 0
  nextId := 0
  fault := .noFault
  faultPc := 0
  faultAddr := 0
  turn := Turn.start

/-- The machine right after reset: the launch of `CFG_REF` (R9) with every register and memory byte 0 and no program
loaded yet (DESIGN CHOICE, log entries 5, 7, 8, 9). -/
def State.reset : State := State.launch Config.ref [] (fun _ => 0) (fun _ => 0) []

/-- What an action or a step answers. -/
abbrev Result := Host.Outcome State Fault Refusal

end Sys2Proof.Machine
end

