-- ==== Sys2Proof/Machine/Ops.lean ====
section
/-! DEFINITION. The named operations over memory, registers, the ROB, the reservation stations and the lanes, and
raising a fault (60_exceptions.md R301), which is this block's only exception. There is no return from one (R316). -/

namespace Sys2Proof.Machine

/-! ## Raising a fault -/

/-- `raise F(info)` (R301): the sticky register and the two info registers; the step ends because every later action
is taken only while `FAULT = 0` (`andThen`). Writes made earlier in the step remain. -/
def State.raise (s : State) (f : FaultCode) (pc addr : Word) : State :=
  { s with fault := f, faultPc := pc, faultAddr := addr }

/-- The statement after an action (R13, R301): it runs on the action's next state unless the action raised a fault. -/
def andThen (o : Result) (f : State → Result) : Result :=
  match o with
  | .next s => if s.fault = .noFault then f s else .next s
  | .fault e => .fault e
  | .refused e => .refused e

/-- The loops of the phases: one action per list member, in order, until a fault is raised. -/
def forEach {α : Type} (f : α → State → Result) : List α → State → Result
  | [], s => .next s
  | x :: xs, s => andThen (f x s) (forEach f xs)

/-! ## Data memory (20_memory.md) -/

/-- One byte of `MEM`. -/
def Memory.read : Memory → Nat → Byte
  | [], _ => Memory.unlisted
  | c :: m, a => if c.1 = a then c.2 else Memory.read m a

/-- A cell in front of a memory, left out when its byte is what an unlisted address reads as. -/
def Memory.put (a : Nat) (b : Byte) (m : Memory) : Memory := if b = Memory.unlisted then m else (a, b) :: m

/-- Write one byte, keeping the canonical form. -/
def Memory.write : Memory → Nat → Byte → Memory
  | [], a, b => Memory.put a b []
  | c :: m, a, b =>
    if a < c.1 then Memory.put a b (c :: m)
    else if a = c.1 then Memory.put a b m
    else c :: Memory.write m a b

/-- Every listed address is above `a`. -/
def Memory.above (a : Nat) (m : Memory) : Bool := m.all fun c => decide (a < c.1)

/-- The canonical form: addresses strictly rising, no listed byte equal to what an unlisted address reads as. -/
def Memory.wf : Memory → Bool
  | [] => true
  | c :: m => Memory.above c.1 m && c.2 != Memory.unlisted && Memory.wf m

/-- The little-endian word at `a` (R62). -/
def Memory.readWord (m : Memory) (a : Nat) : Word :=
  m.read (a + 3) ++ m.read (a + 2) ++ m.read (a + 1) ++ m.read a

/-- `MEM[a+j] <- v[8j+7:8j]` (R62). -/
def Memory.writeWord (m : Memory) (a : Nat) (v : Word) : Memory :=
  (((m.write a (v.extractLsb' 0 8)).write (a + 1) (v.extractLsb' 8 8)).write (a + 2) (v.extractLsb' 16 8)).write
    (a + 3) (v.extractLsb' 24 8)

/-- What is wrong with a data access at `a` (R63, R64, R68): misalignment first, then the range, in unbounded
integers. -/
def accessFault (cfg : Config) (a : Word) : Option FaultCode :=
  if a.toNat % 4 ≠ 0 then some .memMisaligned
  else if cfg.memSize < a.toNat + 4 then some .memOutOfRange
  else none

/-- `MemRead(a, 4)` (R12). -/
def State.memRead (s : State) (a : Word) : Except FaultCode Word :=
  match accessFault s.cfg a with
  | some f => .error f
  | none => .ok (s.mem.readWord a.toNat)

/-- `MemWrite(a, 4, v)` (R12). Both checks come before any byte is written. -/
def State.memWrite (s : State) (a v : Word) : Except FaultCode State :=
  match accessFault s.cfg a with
  | some f => .error f
  | none => .ok { s with mem := s.mem.writeWord a.toNat v }

/-! ## Registers (R11: `REG(f, i)`) -/

/-- The entry of a register of either bank. -/
def State.reg (s : State) : RegName → RegEntry
  | .gpr i => s.gpr[i.val]
  | .fpr i => s.fpr[i.val]

def State.setReg (s : State) (r : RegName) (e : RegEntry) : State :=
  match r with
  | .gpr i => { s with gpr := s.gpr.set i.val e }
  | .fpr i => { s with fpr := s.fpr.set i.val e }

/-- A bank with every busy bit cleared (R170). -/
def RegBank.clearBusy (b : RegBank) : RegBank := Vector.ofFn fun i => { b[i.val] with busy := false }

/-! ## The reorder buffer (R30 to R33) -/

/-- `ROB[t]`. -/
def State.slot (s : State) (t : Nat) : RobSlot := (s.rob.slots[t]?).getD RobSlot.empty

def State.setSlot (s : State) (t : Nat) (e : RobSlot) : State :=
  { s with rob := { s.rob with slots := s.rob.slots.set t e } }

/-- The slot at the head. -/
def State.headSlot (s : State) : RobSlot := s.slot s.rob.head

def State.robFull (s : State) : Bool := s.rob.count == s.cfg.robSize

/-- `age(t)` (R14). -/
def State.age (s : State) (t : Nat) : Nat := (t + s.cfg.robSize - s.rob.head) % s.cfg.robSize

/-- The tags in age order: `head, head+1, ...` modulo `ROB_SIZE`, the first `n` of them (R14, R30). -/
def State.tagsFrom (s : State) (n : Nat) : List Nat := (List.range n).map fun j => (s.rob.head + j) % s.cfg.robSize

/-- The live tags, oldest first (R30). -/
def State.liveTags (s : State) : List Nat := s.tagsFrom s.rob.count

/-- The live tags older than `t`, nearest first (R136). -/
def State.olderTags (s : State) (t : Nat) : List Nat := (s.liveTags.takeWhile (· ≠ t)).reverse

/-- The cycle number of the cycle being executed, `CYCLE + 1` (R109). -/
def State.now (s : State) : Count := s.cycle + 1

/-- `AllocROB(r)` (R109): the slot at the tail. The stamps of the stages not reached yet keep their old values (DEDUCED, log
entry 11). -/
def State.allocRob (s : State) (r : Record) : State :=
  let t := s.rob.tail
  { s with rob :=
      { slots := s.rob.slots.set t
          { live := true, instr := r, ready := false, value := 0, addr := 0, addrKnown := false, misPred := false,
            stctr := none, stage := .issue, ts := { (s.slot t).ts with issue := s.now } }
        head := s.rob.head
        tail := (t + 1) % s.cfg.robSize
        count := s.rob.count + 1 } }

/-- `Pop` (R33), and the count of committed instructions that follows it at both of its uses (R160, R164). -/
def State.popAndCount (s : State) : State :=
  if s.rob.count = 0 then s.raise .robUnderflow 0 0
  else
    { s with
      rob :=
        { slots := s.rob.slots.set s.rob.head { s.headSlot with live := false }
          head := (s.rob.head + 1) % s.cfg.robSize
          tail := s.rob.tail
          count := s.rob.count - 1 }
      committed := s.committed + 1 }

/-! ## The reservation stations (R36 to R39) -/

/-- `RS[p][k]`. -/
def State.entry (s : State) (e : RsRef) : RsEntry := ((s.rs.get e.pool)[e.idx]?).getD RsEntry.empty

def State.setEntry (s : State) (e : RsRef) (x : RsEntry) : State :=
  { s with rs := s.rs.set e.pool ((s.rs.get e.pool).set e.idx x) }

/-- The lowest index from `k` on at which `p` holds. -/
def firstIdx {α : Type} (p : α → Bool) : List α → Nat → Option Nat
  | [], _ => none
  | x :: xs, k => if p x then some k else firstIdx p xs (k + 1)

/-- The lowest free entry of a pool (R110), or none when it is at capacity (R38, R108). -/
def State.freeEntry (s : State) (p : Pool) : Option Nat := firstIdx (fun e => !e.busy) (s.rs.get p) 0

/-- A function on every entry of every pool. -/
def State.mapEntries (s : State) (f : RsEntry → RsEntry) : State :=
  { s with rs := s.rs.map fun l => l.map f }

/-! ## Lanes and bypass slots (R40 to R43) -/

/-- `LANE[c][j]`. -/
def State.lane (s : State) (c : UnitClass) (j : Nat) : Lane := ((s.lanes.get c)[j]?).getD Lane.empty

def State.setLane (s : State) (c : UnitClass) (j : Nat) (l : Lane) : State :=
  { s with lanes := s.lanes.set c ((s.lanes.get c).set j l) }

/-- The lowest free lane of a class (R131): free means not busy (R41). -/
def State.freeLane (s : State) (c : UnitClass) : Option Nat := firstIdx (fun l => !l.busy) (s.lanes.get c) 0

/-- `BYP[j]`. -/
def State.bypSlot (s : State) (j : Nat) : BypSlot := (s.byp[j]?).getD BypSlot.empty

def State.setByp (s : State) (j : Nat) (b : BypSlot) : State := { s with byp := s.byp.set j b }

/-- The lowest free bypass slot (R132). -/
def State.freeByp (s : State) : Option Nat := firstIdx (fun b => !b.busy) s.byp 0

/-- What timed lanes and bypass slots have in common, for writeback: busy, the entry, the result, the branch outcome
(none in a bypass slot), done. -/
structure SlotView where
  busy : Bool
  rs : RsRef
  result : Word
  misPred : Bool
  done : Bool
  deriving DecidableEq, Repr

def State.slotView (s : State) : SlotRef → SlotView
  | .timed c j => let l := s.lane c j; ⟨l.busy, l.rs, l.result, l.misPred, l.done⟩
  | .bypass j => let b := s.bypSlot j; ⟨b.busy, b.rs, b.result, false, b.done⟩

/-- `L.busy <- 0; L.done <- 0; L.ttl <- 0` (R150). -/
def State.freeSlot (s : State) : SlotRef → State
  | .timed c j => s.setLane c j { s.lane c j with busy := false, done := false, ttl := 0 }
  | .bypass j => s.setByp j { s.bypSlot j with busy := false, done := false }

/-! ## The turn -/

def State.atPhase (s : State) (p : Phase) : State := { s with turn := { s.turn with phase := p } }

/-! ## Raw data that is a state of the block -/

/-- The ranges R20 to R50 declare for the parts of the state, given the configuration. -/
def Operand.inRange (o : Operand) (robSize : Nat) : Bool := decide (o.tag < robSize)

def RsEntry.inRange (e : RsEntry) (robSize : Nat) : Bool :=
  e.op1.inRange robSize && e.op2.inRange robSize && decide (e.tagD < robSize)

def RsRef.inRange (e : RsRef) (cfg : Config) : Bool := decide (e.idx < cfg.rsSize.get e.pool)

def RegBank.inRange (b : RegBank) (robSize : Nat) : Bool := b.toList.all fun e => decide (e.tag < robSize)

def Rob.inRange (r : Rob) (cfg : Config) : Bool :=
  r.slots.length == cfg.robSize && decide (r.head < cfg.robSize) && decide (r.tail < cfg.robSize)
    && decide (r.count ≤ cfg.robSize)
    && r.slots.all fun e => decide (e.stctr.getD 0 ≤ cfg.lat.memory)

def State.poolInRange (s : State) (p : Pool) : Bool :=
  (s.rs.get p).length == s.cfg.rsSize.get p && (s.rs.get p).all fun e => e.inRange s.cfg.robSize

def State.lanesInRange (s : State) (c : UnitClass) : Bool :=
  (s.lanes.get c).length == s.cfg.lanes.get c
    && (s.lanes.get c).all fun l => l.rs.inRange s.cfg && decide (l.ttl ≤ s.cfg.lat.get c)

def State.bypInRange (s : State) : Bool :=
  s.byp.length == s.cfg.bypassSize && s.byp.all fun b => b.rs.inRange s.cfg

def State.memInRange (s : State) : Bool :=
  s.mem.wf && s.mem.all fun c => decide (c.1 < s.cfg.memSize)

/-- The raw data is a state of the block: every array has its length and every index, tag and countdown its range
(R20 to R50), and memory is in canonical form within `MEM_SIZE` (DESIGN CHOICE, log entry 4). -/
def State.shaped (s : State) : Bool :=
  s.gpr.inRange s.cfg.robSize && s.fpr.inRange s.cfg.robSize && s.rob.inRange s.cfg
    && Pool.all.all s.poolInRange && UnitClass.all.all s.lanesInRange && s.bypInRange && s.memInRange

end Sys2Proof.Machine
end

