-- ==== Sys2Proof/Machine/Operands.lean ====
section
/-! DEFINITION. The operand forms (30_encoding.md R83 to R85), renaming (40_pipeline_issue.md R100) and the addresses
computed from operands (41_pipeline_dispatch.md R122, 45_control_transfer.md R230). -/

namespace Sys2Proof.Machine

/-- The registers a form's slots name: none for an invalid slot (R83, R85). -/
structure Operands where
  dst : Option RegName
  src1 : Option RegName
  src2 : Option RegName
  deriving DecidableEq, Repr

/-- RRR-int (R83). -/
def Operands.rrr (rd rs rt : Reg) : Operands := ⟨some (.gpr rd), some (.gpr rs), some (.gpr rt)⟩

/-- RRI-int (R83): the immediate is the second operand word and is no slot. -/
def Operands.rri (rd rs : Reg) : Operands := ⟨some (.gpr rd), some (.gpr rs), none⟩

/-- RRR-fp (R83). -/
def Operands.rrrFp (fd fs ft : Reg) : Operands := ⟨some (.fpr fd), some (.fpr fs), some (.fpr ft)⟩

/-- LOAD-int and LOAD-fp (R83): `src1` is the base. -/
def Operands.load (dst : RegName) (rs : Reg) : Operands := ⟨some dst, some (.gpr rs), none⟩

/-- STORE-int and STORE-fp (R83): `src1` is the base, `src2` the data. -/
def Operands.store (data : RegName) (rs : Reg) : Operands := ⟨none, some (.gpr rs), some data⟩

/-- BRANCH (R83): `src1` is the tested register. -/
def Operands.branch (rs : Reg) : Operands := ⟨none, some (.gpr rs), none⟩

/-- JUMP (R83). -/
def Operands.jump : Operands := ⟨none, none, none⟩

/-- An operand that has its value. -/
def Operand.value! (v : Word) : Operand := ⟨true, v, 0⟩

/-- `rename(i, f)` (R100): a pure read (R101). -/
def State.rename (s : State) (r : RegName) : Operand :=
  let e := s.reg r
  if e.busy = false then .value! e.value
  else if (s.slot e.tag).ready then .value! (s.slot e.tag).value
  else ⟨false, 0, e.tag⟩

/-- A source slot at issue (R85, R110): an invalid slot is ready with value 0. -/
def State.source (s : State) : Option RegName → Operand
  | none => .value! 0
  | some r => s.rename r

/-- `op1.value + imm`, modulo `2^32` (R122). -/
def effectiveAddress (base imm : Word) : Word := base + imm

/-- `pc + 4 + imm`, modulo `2^32`, from the record's own address (R230). -/
def branchTarget (pc imm : Word) : Word := pc + 4 + imm

end Sys2Proof.Machine
end

