-- ==== Sys2Proof/Machine/Flags.lean ====
section
/-! DEFINITION. The block has no condition codes (10_state.md R28). Its only flags are those of instructions in flight:
a branch's outcome (45_control_transfer.md R229 to R237), dispatch eligibility (41_pipeline_dispatch.md R120) and a head
ready to commit (43_pipeline_commit_squash.md R160). No instruction writes any other flag. -/

namespace Sys2Proof.Machine

/-- `BEQZ` is taken (R231). -/
def takenEqz (a : Word) : Bool := a == 0

/-- `BNEZ` is taken (R232). -/
def takenNez (a : Word) : Bool := a != 0

/-- `BLTZ` is taken (R233): the tested word is read as signed (R229). -/
def takenLtz (a : Word) : Bool := decide (s32 a < 0)

/-- `BGTZ` is taken (R234). -/
def takenGtz (a : Word) : Bool := decide (0 < s32 a)

/-- `BLEZ` is taken (R235). -/
def takenLez (a : Word) : Bool := decide (s32 a ≤ 0)

/-- `BGEZ` is taken (R236). -/
def takenGez (a : Word) : Bool := decide (0 ≤ s32 a)

/-- `JUMP` is always taken (R237). -/
def takenAlways (_ : Word) : Bool := true

/-- A dispatch-eligible entry (R120). -/
def RsEntry.eligible (e : RsEntry) : Bool := e.busy && !e.inExec && e.op1.ready && e.op2.ready

/-- An entry whose address phase X1 computes this cycle (R122). -/
def RsEntry.wantsAddress (e : RsEntry) : Bool := e.busy && !e.inExec && e.op1.ready && !e.addrKnown

/-- The ROB head commits, or is a store that counts down: it exists and is ready (R160). -/
def State.headReady (s : State) : Bool := s.rob.count != 0 && s.headSlot.ready

end Sys2Proof.Machine
end

