-- ==== Sys2Proof/Machine/Float.lean ====
section
/-! DEFINITION. Binary32 arithmetic (47_float_ops.md R265, R266): the exact result in integers, rounded once to nearest
with ties to even, subnormals kept. -/

namespace Sys2Proof.Machine

/-- `f32(w)` (R10): what a word stands for as a binary32 pattern. `fin neg m e` is `(-1)^neg * m * 2^e`. -/
inductive FloatVal where
  | nan
  | inf (neg : Bool)
  | fin (neg : Bool) (m : Nat) (e : Int)
  deriving DecidableEq, Repr

/-- The value of a pattern. A zero exponent field holds a zero or a subnormal (R265). -/
def floatVal (w : Word) : FloatVal :=
  let neg := w.getLsbD 31
  let ex := (w.extractLsb' 23 8).toNat
  let frac := (w.extractLsb' 0 23).toNat
  if ex = 255 then if frac = 0 then .inf neg else .nan
  else if ex = 0 then .fin neg frac (-149)
  else .fin neg (2 ^ 23 + frac) ((ex : Int) - 150)

/-- A sign and a magnitude pattern below `2^31` as a word. -/
def signed32 (neg : Bool) (mag : Nat) : Word := BitVec.ofNat 32 (if neg then 2 ^ 31 + mag else mag)

/-- The pattern of an infinity, without its sign. -/
def infMag : Nat := 0x7F800000

/-- `num / den` rounded to the nearest natural, ties to even. -/
def roundNat (num den : Nat) : Nat :=
  let q := num / den
  let r := num % den
  if den < 2 * r ∨ (2 * r = den ∧ q % 2 = 1) then q + 1 else q

/-- `num / den * 2^k` rounded to the nearest natural, ties to even. -/
def roundScaled (num den : Nat) (k : Int) : Nat :=
  if 0 ≤ k then roundNat (num * 2 ^ k.toNat) den else roundNat num (den * 2 ^ (-k).toNat)

/-- The greatest `l` with `2^l <= num / den`, for positive `num` and `den`. -/
def floorLog2 (num den : Nat) : Int :=
  let l : Int := (Nat.log2 num : Int) - (Nat.log2 den : Int)
  if (if 0 ≤ l then den * 2 ^ l.toNat ≤ num else den ≤ num * 2 ^ (-l).toNat) then l else l - 1

/-- The exponent of the last place of the binary32 significand for a value whose leading power of two is `2^top`:
24 bits of significand, and never below the subnormals' `2^-149`. -/
def lastPlace (top : Int) : Int := max (top - 23) (-149)

/-- `bits32(round((-1)^neg * num / den * 2^e))` (R265) for positive `den`. The pattern of a rounded significand `n` at
last place `2^x` is `(x + 149) * 2^23 + n`, subnormals and a carry into the next exponent included; at `infMag` or
above the magnitude has rounded above the largest finite value. -/
def roundFloat (neg : Bool) (num den : Nat) (e : Int) : Word :=
  if num = 0 then signed32 neg 0
  else
    let x := lastPlace (floorLog2 num den + e)
    let mag := (x + 149).toNat * 2 ^ 23 + roundScaled num den (e - x)
    signed32 neg (if infMag ≤ mag then infMag else mag)

/-- A signed integer from a sign and a magnitude. -/
def signedInt (neg : Bool) (m : Nat) : Int := if neg then -(m : Int) else (m : Int)

/-- The sum of two finite values (R265): an exact zero is `+0` unless both operands are negative zeros. -/
def addFinite (na : Bool) (ma : Nat) (ea : Int) (nb : Bool) (mb : Nat) (eb : Int) : Word :=
  let e := min ea eb
  let sum := signedInt na (ma * 2 ^ (ea - e).toNat) + signedInt nb (mb * 2 ^ (eb - e).toNat)
  if sum = 0 then signed32 (na && nb) 0 else roundFloat (decide (sum < 0)) sum.natAbs 1 e

/-- A float sum; none where IEEE 754 gives a NaN (R266: an operand is a NaN, `inf - inf`). -/
def floatAdd : FloatVal → FloatVal → Option Word
  | .nan, _ => none
  | _, .nan => none
  | .inf a, .inf b => if a = b then some (signed32 a infMag) else none
  | .inf a, .fin _ _ _ => some (signed32 a infMag)
  | .fin _ _ _, .inf b => some (signed32 b infMag)
  | .fin na ma ea, .fin nb mb eb => some (addFinite na ma ea nb mb eb)

/-- The value with its sign turned. -/
def FloatVal.neg : FloatVal → FloatVal
  | .nan => .nan
  | .inf a => .inf (!a)
  | .fin a m e => .fin (!a) m e

/-- A float product; none where IEEE 754 gives a NaN (R266: `0 * inf`). -/
def floatMul : FloatVal → FloatVal → Option Word
  | .nan, _ => none
  | _, .nan => none
  | .inf a, .inf b => some (signed32 (a != b) infMag)
  | .inf a, .fin b m _ => if m = 0 then none else some (signed32 (a != b) infMag)
  | .fin a m _, .inf b => if m = 0 then none else some (signed32 (a != b) infMag)
  | .fin na ma ea, .fin nb mb eb => some (roundFloat (na != nb) (ma * mb) 1 (ea + eb))

/-- A float quotient; none where IEEE 754 gives a NaN (R266: `0 / 0`, `inf / inf`). A nonzero finite value over a zero
is an infinity (R273). -/
def floatDiv : FloatVal → FloatVal → Option Word
  | .nan, _ => none
  | _, .nan => none
  | .inf _, .inf _ => none
  | .inf a, .fin b _ _ => some (signed32 (a != b) infMag)
  | .fin a _ _, .inf b => some (signed32 (a != b) 0)
  | .fin na ma ea, .fin nb mb eb =>
    if mb = 0 then if ma = 0 then none else some (signed32 (na != nb) infMag)
    else some (roundFloat (na != nb) ma mb (ea - eb))

/-- The IEEE result of a float operation, none for a NaN (R270 to R273). -/
def floatResult : FloatOp → Word → Word → Option Word
  | .adds, a, b => floatAdd (floatVal a) (floatVal b)
  | .subs, a, b => floatAdd (floatVal a) (floatVal b).neg
  | .mults, a, b => floatMul (floatVal a) (floatVal b)
  | .divs, a, b => floatDiv (floatVal a) (floatVal b)

/-- What a float operation computes: the IEEE result, `FP_NAN(op, a, b)` for a NaN (R265, R266). It never faults
(R267). -/
def floatCompute (nan : NanRule) (op : FloatOp) (a b : Word) : Word := (floatResult op a b).getD (nan.apply op a b)

end Sys2Proof.Machine
end

