-- ==== Sys2Proof/Machine/Actions.lean ====
section
/-! DEFINITION. The actions an instruction takes in the phases of a cycle, once each, shared by every instruction:
issue (40_pipeline_issue.md), address generation and dispatch (41_pipeline_dispatch.md), countdown and compute,
writeback (42_pipeline_execute_writeback.md), commit and squash (43_pipeline_commit_squash.md). The last section
composes them into the five ways an instruction goes through the block. -/

namespace Sys2Proof.Machine

/-! ## I: issue -/

/-- Issue stops for this cycle (R103: `stop`). -/
def State.stopIssue (s : State) : State := s.atPhase .finalize

/-- `AllocRS(p, r, t)` (R110), the sources renamed. -/
def State.allocRs (s : State) (e : RsRef) (r : Record) (t : Nat) (ops : Operands) : State :=
  { s.setEntry e
      { busy := true, instr := r, op1 := s.source ops.src1, op2 := s.source ops.src2, tagD := t, addr := 0,
        addrKnown := false, inExec := false, id := s.nextId, remove := false } with
    nextId := s.nextId + 1 }

/-- The destination rename (R111). -/
def State.renameDst (s : State) (dst : Option RegName) (t : Nat) : State :=
  match dst with
  | none => s
  | some r => s.setReg r { s.reg r with tag := t, busy := true }

/-- `pc <- pc + 4; n <- n + 1`, and the batch ends at a branch (R112, R113). -/
def State.advance (s : State) (isBranch : Bool) : State :=
  { s with
    pc := s.pc + 4
    turn := { s.turn with
      phase := if isBranch then .finalize else s.turn.phase
      issued := s.turn.issued + 1 } }

/-- One pass of the issue loop for an instruction of pool `p` fetched as record `r` (R103): stop when the ROB is full
(R104) or the pool is (R108); otherwise allocate, rename the sources, rename the destination, advance (R109 to
R113). -/
def State.issueInto (s : State) (p : Pool) (ops : Operands) (isBranch : Bool) (r : Record) : State :=
  if s.robFull then s.stopIssue
  else
    match s.freeEntry p with
    | none => s.stopIssue
    | some k =>
      (((s.allocRob r).allocRs ⟨p, k⟩ r s.rob.tail ops).renameDst ops.dst s.rob.tail).advance isBranch

/-! ## X1: address generation -/

/-- One pass of `X1` (R122) for entry `k` of `LOAD_B`; a store records its address in its ROB slot too. -/
def State.generateAddress (s : State) (k : Nat) (imm : Word) (isStore : Bool) : State :=
  let e := s.entry ⟨.loadB, k⟩
  if e.wantsAddress then
    let a := effectiveAddress e.op1.value imm
    let s := s.setEntry ⟨.loadB, k⟩ { e with addr := a, addrKnown := true }
    if isStore then s.setSlot e.tagD { s.slot e.tagD with addr := a, addrKnown := true } else s
  else s

/-! ## X2: dispatch -/

/-- `e.inExec <- 1` and the stage marker `EXECUTE` of its ROB slot (R131, R132). -/
def State.markExecuting (s : State) (ref : RsRef) : State :=
  let e := s.entry ref
  let s := s.setEntry ref { e with inExec := true }
  let slot := s.slot e.tagD
  s.setSlot e.tagD { slot with stage := .execute, ts := { slot.ts with execute := s.now } }

/-- `DispatchTimed(c, e)` (R131): a structural stall where no lane of the class is free. -/
def State.dispatchTimed (s : State) (c : UnitClass) (ref : RsRef) : State :=
  match s.freeLane c with
  | none => s
  | some j => (s.setLane c j ⟨true, ref, s.cfg.lat.get c, 0, false, false⟩).markExecuting ref

/-- `DispatchBypass(e, v)` (R132). A free slot always exists in a state of the block (R43). -/
def State.dispatchBypass (s : State) (ref : RsRef) (v : Word) : State :=
  match s.freeByp with
  | none => s
  | some j => (s.setByp j ⟨true, ref, v, false⟩).markExecuting ref

/-- The outcome of the disambiguation check (R136). -/
inductive Disambig where
  | clear
  | conflict
  | bypass (v : Word)
  | notLive
  deriving DecidableEq, Repr

/-- The scan over older slots, nearest first (R136). -/
def scanStores (a : Word) : List RobSlot → Disambig
  | [] => .clear
  | s :: rest =>
    if !s.instr.opIsStore then scanStores a rest
    else if !s.addrKnown then .conflict
    else if s.addr = a then if s.ready then .bypass s.value else .conflict
    else scanStores a rest

/-- `Disambiguate(e)` (R136); `notLive` is the failed scan of R137. -/
def State.disambiguate (s : State) (e : RsEntry) : Disambig :=
  if e.tagD ∈ s.liveTags then scanStores e.addr ((s.olderTags e.tagD).map s.slot) else .notLive

/-- Dispatch of a non-memory instruction (R130, R131). -/
def State.dispatchAlu (s : State) (c : UnitClass) (ref : RsRef) : State :=
  if (s.entry ref).eligible then s.dispatchTimed c ref else s

/-- Dispatch of a store (R132): into the bypass array with its data. -/
def State.dispatchStore (s : State) (ref : RsRef) : State :=
  if (s.entry ref).eligible then s.dispatchBypass ref (s.entry ref).op2.value else s

/-- A load that needs memory (R133, R134): held by `memBlock`, by the one-per-cycle rule, or for want of a lane. -/
def State.dispatchMemory (s : State) (ref : RsRef) : State :=
  if s.memBlock || s.turn.memTimedIssued then s
  else
    match s.freeLane .memory with
    | none => s
    | some _ =>
      let s := s.dispatchTimed .memory ref
      { s with turn := { s.turn with memTimedIssued := true } }

/-- `DispatchLoad(e)` (R133). -/
def State.dispatchLoad (s : State) (ref : RsRef) : State :=
  let e := s.entry ref
  if e.eligible then
    match s.disambiguate e with
    | .notLive => s.raise .disambigScan e.instr.pc 0
    | .conflict => s
    | .bypass v => s.dispatchBypass ref v
    | .clear => s.dispatchMemory ref
  else s

/-! ## X3: countdown and compute -/

/-- The lane has its result (R140). -/
def State.finishLane (s : State) (c : UnitClass) (j : Nat) (v : Word) (misPred : Bool) : State :=
  s.setLane c j { s.lane c j with result := v, misPred := misPred, done := true }

/-- The countdown of R140: what an instruction computes, `k`, runs on its entry when its lane reaches zero. -/
def State.countDown (s : State) (c : UnitClass) (j : Nat) (k : RsEntry → State → State) : State :=
  let l := s.lane c j
  if l.busy && !l.done then
    let s := s.setLane c j { l with ttl := l.ttl - 1 }
    if l.ttl - 1 = 0 then k (s.entry l.rs) s else s
  else s

/-- The end of `Compute` (R140, R141): a result, or a fault of the instruction at `pc`. -/
def State.finishAlu (s : State) (c : UnitClass) (j : Nat) (pc : Word) : Except FaultCode Word → State
  | .ok v => s.finishLane c j v false
  | .error f => s.raise f pc 0

/-- A load's timed lane reaches zero (R143): the memory read, and the count of completions for R145. -/
def State.finishLoad (s : State) (c : UnitClass) (j : Nat) (e : RsEntry) : State :=
  match s.memRead e.addr with
  | .error f => s.raise f e.instr.pc e.addr
  | .ok v =>
    let s := s.finishLane c j v false
    { s with turn := { s.turn with memDone := s.turn.memDone + 1 } }

/-! ## W: writeback -/

/-- One operand hears the broadcast of `(t, v)` (R150, R151). -/
def Operand.hear (o : Operand) (t : Nat) (v : Word) : Operand :=
  if o.ready = false ∧ o.tag = t then ⟨true, v, 0⟩ else o

/-- One entry hears the broadcast: every busy one, whatever its pool (R151). -/
def RsEntry.hear (e : RsEntry) (t : Nat) (v : Word) : RsEntry :=
  if e.busy then { e with op1 := e.op1.hear t v, op2 := e.op2.hear t v } else e

/-- The ROB slot of the broadcast (R152); a branch's outcome goes with it. -/
def RobSlot.hear (x : RobSlot) (v : Word) (misPred : Option Bool) (now : Count) : RobSlot :=
  { x with ready := true, value := v, misPred := misPred.getD x.misPred, stage := .writeResult,
           ts := { x.ts with writeResult := now } }

/-- The body of the writeback loop for the done slot `l` (R150): broadcast, ROB update, mark the entry for removal,
free the slot. -/
def State.writeResult (s : State) (l : SlotRef) (isBranch : Bool) : State :=
  let w := s.slotView l
  let t := (s.entry w.rs).tagD
  let s := s.mapEntries fun e => e.hear t w.result
  let s := s.setSlot t ((s.slot t).hear w.result (if isBranch then some w.misPred else none) s.now)
  let s := s.setEntry w.rs { s.entry w.rs with remove := true }
  s.freeSlot l

/-! ## C: commit and squash -/

/-- The stage marker `COMMIT` of the head (R160). -/
def State.stampCommit (s : State) : State :=
  let e := s.headSlot
  if e.stage ≠ .commit then s.setSlot s.rob.head { e with stage := .commit, ts := { e.ts with commit := s.now } }
  else s

/-- The register update at commit (R162): the value always, the busy bit only where the tag is the head's. -/
def State.commitReg (s : State) (dst : Option RegName) : State :=
  match dst with
  | none => s
  | some r =>
    let e := s.reg r
    s.setReg r { e with value := s.headSlot.value
                        busy := if e.busy = true ∧ e.tag = s.rob.head then false else e.busy }

/-- Commit of an instruction that is neither a store nor a branch (R160, R162). -/
def State.commitResult (s : State) (dst : Option RegName) : State :=
  if s.headReady then (s.stampCommit.commitReg dst).popAndCount else s

/-- A squashed lane (R170). -/
def Lane.clear (l : Lane) : Lane := { l with busy := false, ttl := 0, done := false, result := 0, misPred := false }

/-- A squashed bypass slot (R170). -/
def BypSlot.clear (b : BypSlot) : BypSlot := { b with busy := false, done := false, result := 0 }

/-- `Squash(target)` (R170). -/
def State.squash (s : State) (target : Word) : State :=
  { s with
    lanes := s.lanes.map fun l => l.map Lane.clear
    byp := s.byp.map BypSlot.clear
    rs := s.rs.map fun l => l.map fun e => { e with busy := false, remove := false }
    rob :=
      { slots := s.rob.slots.map fun x => { x with live := false }
        head := s.rob.tail
        tail := s.rob.tail
        count := 0 }
    gpr := s.gpr.clearBusy
    fpr := s.fpr.clearBusy
    pc := target }

/-- Commit of a branch (R163): counted; taken, it squashes, otherwise it is popped. -/
def State.commitBranch (s : State) : State :=
  if s.headReady then
    let s := s.stampCommit
    if s.headSlot.misPred then { s with committed := s.committed + 1 }.squash s.headSlot.value else s.popAndCount
  else s

/-- `e.stctr <- LAT[MEMORY]; memBlock <- 1` in the first commit cycle, then the decrement of every commit cycle
(R164). -/
def State.storeCountdown (s : State) : State :=
  let e := s.headSlot
  let s' := s.setSlot s.rob.head { e with stctr := some (e.stctr.getD s.cfg.lat.memory - 1) }
  { s' with memBlock := s.memBlock || e.stctr.isNone }

/-- The memory write of a store whose countdown has ended (R164). -/
def State.storeWrite (s : State) : State :=
  let e := s.headSlot
  match s.memWrite e.addr e.value with
  | .error f => s.raise f e.instr.pc e.addr
  | .ok s => { s with memBlock := false }.popAndCount

/-- `CommitStore(h, e)` (R160, R164). -/
def State.commitStore (s : State) : State :=
  if s.headReady then
    let s := s.stampCommit.storeCountdown
    if 0 < s.headSlot.stctr.getD 0 then s else s.storeWrite
  else s

/-! ## The five ways through the block

`exec i s` is the action of `i` in the phase and slot `s.turn` names. Each way below lists the action in each phase. An
instruction without one there (a non-memory instruction in X1) leaves the state as it is. -/

/-- An instruction that computes a register's value from its operands (R195, R268): `f` is its `Compute`. -/
def aluWay (c : UnitClass) (ops : Operands) (f : Word → Word → Except FaultCode Word) (s : State) : Result :=
  match s.turn.phase with
  | .commit => .next (s.commitResult ops.dst)
  | .writeback l => .next (s.writeResult l false)
  | .address _ => .next s
  | .dispatch e => .next (s.dispatchAlu c e)
  | .complete c j => .next (s.countDown c j fun e s => s.finishAlu c j e.instr.pc (f e.op1.value e.op2.value))
  | .issue r => .next (s.issueInto c.pool ops false r)
  | .finalize => .next s

/-- A load (R245). -/
def loadWay (dst : RegName) (rs : Reg) (imm : Word) (s : State) : Result :=
  match s.turn.phase with
  | .commit => .next (s.commitResult (some dst))
  | .writeback l => .next (s.writeResult l false)
  | .address k => .next (s.generateAddress k imm false)
  | .dispatch e => .next (s.dispatchLoad e)
  | .complete c j => .next (s.countDown c j fun e s => s.finishLoad c j e)
  | .issue r => .next (s.issueInto .loadB (.load dst rs) false r)
  | .finalize => .next s

/-- A store (R246). It never enters a timed lane (R132), so it has no computation there: one found in a lane is an
opcode with no ALU operation (R141). -/
def storeWay (data : RegName) (rs : Reg) (imm : Word) (s : State) : Result :=
  match s.turn.phase with
  | .commit => .next s.commitStore
  | .writeback l => .next (s.writeResult l false)
  | .address k => .next (s.generateAddress k imm true)
  | .dispatch e => .next (s.dispatchStore e)
  | .complete c j => .next (s.countDown c j fun e s => s.raise .unknownOpcode e.instr.pc 0)
  | .issue r => .next (s.issueInto .loadB (.store data rs) false r)
  | .finalize => .next s

/-- A branch or jump (R225): `taken` is its condition on the tested word. -/
def branchWay (ops : Operands) (imm : Word) (taken : Word → Bool) (s : State) : Result :=
  match s.turn.phase with
  | .commit => .next s.commitBranch
  | .writeback l => .next (s.writeResult l true)
  | .address _ => .next s
  | .dispatch e => .next (s.dispatchAlu .integer e)
  | .complete c j =>
    .next (s.countDown c j fun e s => s.finishLane c j (branchTarget e.instr.pc imm) (taken e.op1.value))
  | .issue r => .next (s.issueInto .intRs ops true r)
  | .finalize => .next s

/-- The end of program (R107, R256): it stops issue, and has no action in any other phase, since it is never allocated,
never executes and never commits. One found in a timed lane is an opcode with no ALU operation (R141; DEDUCED, log entry 13). -/
def eopWay (s : State) : Result :=
  match s.turn.phase with
  | .commit => .next s
  | .writeback _ => .next s
  | .address _ => .next s
  | .dispatch _ => .next s
  | .complete c j => .next (s.countDown c j fun e s => s.raise .unknownOpcode e.instr.pc 0)
  | .issue _ => .next s.stopIssue
  | .finalize => .next s

end Sys2Proof.Machine
end

