-- ==== Sys2Proof/Machine/ControlTransfer.lean ====
section
/-! DEFINITION. The meanings of the branches and the jump (45_control_transfer.md): the condition on the tested word, and the
target `pc + 4 + imm` (R230). -/

namespace Sys2Proof.Machine

/-- `BEQZ R_s, label` (R231). -/
def execBeqz (rs : Reg) (imm : Word) (s : State) : Result := branchWay (.branch rs) imm takenEqz s

/-- `BNEZ R_s, label` (R232). -/
def execBnez (rs : Reg) (imm : Word) (s : State) : Result := branchWay (.branch rs) imm takenNez s

/-- `BLTZ R_s, label` (R233). -/
def execBltz (rs : Reg) (imm : Word) (s : State) : Result := branchWay (.branch rs) imm takenLtz s

/-- `BGTZ R_s, label` (R234). -/
def execBgtz (rs : Reg) (imm : Word) (s : State) : Result := branchWay (.branch rs) imm takenGtz s

/-- `BLEZ R_s, label` (R235). -/
def execBlez (rs : Reg) (imm : Word) (s : State) : Result := branchWay (.branch rs) imm takenLez s

/-- `BGEZ R_s, label` (R236). -/
def execBgez (rs : Reg) (imm : Word) (s : State) : Result := branchWay (.branch rs) imm takenGez s

/-- `JUMP label` (R237): no register operand, so its operands are ready at issue (R85). -/
def execJump (imm : Word) (s : State) : Result := branchWay .jump imm takenAlways s

end Sys2Proof.Machine
end

