-- ==== Sys2Proof/Machine/FloatOps.lean ====
section
/-! DEFINITION. The meanings of the floating-point instructions (47_float_ops.md): binary32 (R265), NaN results by `FP_NAN` (R266),
no fault and no flag (R267). -/

namespace Sys2Proof.Machine

/-- `ADDS F_d, F_s, F_t` (R270). -/
def execAdds (fd fs ft : Reg) (s : State) : Result :=
  aluWay .adder (.rrrFp fd fs ft) (fun a b => .ok (floatCompute s.cfg.fpNan .adds a b)) s

/-- `SUBS F_d, F_s, F_t` (R271). -/
def execSubs (fd fs ft : Reg) (s : State) : Result :=
  aluWay .adder (.rrrFp fd fs ft) (fun a b => .ok (floatCompute s.cfg.fpNan .subs a b)) s

/-- `MULTS F_d, F_s, F_t` (R272). -/
def execMults (fd fs ft : Reg) (s : State) : Result :=
  aluWay .multiplier (.rrrFp fd fs ft) (fun a b => .ok (floatCompute s.cfg.fpNan .mults a b)) s

/-- `DIVS F_d, F_s, F_t` (R273). -/
def execDivs (fd fs ft : Reg) (s : State) : Result :=
  aluWay .divider (.rrrFp fd fs ft) (fun a b => .ok (floatCompute s.cfg.fpNan .divs a b)) s

end Sys2Proof.Machine
end

