-- ==== Sys2Proof/Machine/IntegerAlu.lean ====
section
/-! DEFINITION. The meanings of the integer arithmetic and logic instructions (44_integer_alu.md). `a` and `b` are the operand
words. No flag exists (R28) and every operation is modulo `2^32` (R196). -/

namespace Sys2Proof.Machine

/-- `DIV` (R211): the quotient, or `DIV_FAULT` for a zero divisor and, signed, for `-2^31 / -1`. -/
def divide (signed : Bool) (a b : Word) : Except FaultCode Word :=
  if b = 0 then .error .divFault
  else if signed then
    if s32 a = -2 ^ 31 ∧ s32 b = -1 then .error .divFault
    else
      let q := (s32 a).natAbs / (s32 b).natAbs
      .ok (BitVec.ofInt 32 (if (decide (s32 a < 0)) != (decide (s32 b < 0)) then -(q : Int) else (q : Int)))
  else .ok (BitVec.ofNat 32 (a.toNat / b.toNat))

/-- `MULT` (R210): the low 32 bits of the product. -/
def multiply (a b : Word) : Word := BitVec.ofNat 32 (a.toNat * b.toNat)

/-- `ADD R_d, R_s, R_t` (R200). -/
def execAdd (rd rs rt : Reg) (s : State) : Result :=
  aluWay .integer (.rrr rd rs rt) (fun a b => .ok (a + b)) s

/-- `SUB R_d, R_s, R_t` (R202). -/
def execSub (rd rs rt : Reg) (s : State) : Result :=
  aluWay .integer (.rrr rd rs rt) (fun a b => .ok (a - b)) s

/-- `XOR R_d, R_s, R_t` (R204). -/
def execXor (rd rs rt : Reg) (s : State) : Result :=
  aluWay .integer (.rrr rd rs rt) (fun a b => .ok (a ^^^ b)) s

/-- `OR R_d, R_s, R_t` (R206). -/
def execOr (rd rs rt : Reg) (s : State) : Result :=
  aluWay .integer (.rrr rd rs rt) (fun a b => .ok (a ||| b)) s

/-- `AND R_d, R_s, R_t` (R208). -/
def execAnd (rd rs rt : Reg) (s : State) : Result :=
  aluWay .integer (.rrr rd rs rt) (fun a b => .ok (a &&& b)) s

/-- `ADDI R_d, R_s, imm` (R201): the immediate word is used as it is (R84). -/
def execAddi (rd rs : Reg) (imm : Word) (s : State) : Result :=
  aluWay .integer (.rri rd rs) (fun a _ => .ok (a + imm)) s

/-- `SUBI R_d, R_s, imm` (R203): the immediate word is used as it is (R84). -/
def execSubi (rd rs : Reg) (imm : Word) (s : State) : Result :=
  aluWay .integer (.rri rd rs) (fun a _ => .ok (a - imm)) s

/-- `XORI R_d, R_s, imm` (R205): the immediate word is used as it is (R84). -/
def execXori (rd rs : Reg) (imm : Word) (s : State) : Result :=
  aluWay .integer (.rri rd rs) (fun a _ => .ok (a ^^^ imm)) s

/-- `ORI R_d, R_s, imm` (R207): the immediate word is used as it is (R84). -/
def execOri (rd rs : Reg) (imm : Word) (s : State) : Result :=
  aluWay .integer (.rri rd rs) (fun a _ => .ok (a ||| imm)) s

/-- `ANDI R_d, R_s, imm` (R209): the immediate word is used as it is (R84). -/
def execAndi (rd rs : Reg) (imm : Word) (s : State) : Result :=
  aluWay .integer (.rri rd rs) (fun a _ => .ok (a &&& imm)) s

/-- `MULT R_d, R_s, R_t` (R210). -/
def execMult (rd rs rt : Reg) (s : State) : Result :=
  aluWay .multiplier (.rrr rd rs rt) (fun a b => .ok (multiply a b)) s

/-- `DIV R_d, R_s, R_t` (R211). -/
def execDiv (rd rs rt : Reg) (s : State) : Result :=
  aluWay .divider (.rrr rd rs rt) (fun a b => divide s.cfg.divSigned a b) s

end Sys2Proof.Machine
end

