-- ==== Sys2Proof/Machine/MemoryOps.lean ====
section
/-! DEFINITION. The meanings of the loads, the stores and the end of program (46_memory_ops.md). Data moves as raw bits, whichever
bank the register is in (R249). -/

namespace Sys2Proof.Machine

/-- `LW R_t, imm(R_s)` (R250). -/
def execLw (rt rs : Reg) (imm : Word) (s : State) : Result := loadWay (.gpr rt) rs imm s

/-- `LWS F_t, imm(R_s)` (R251). -/
def execLws (ft rs : Reg) (imm : Word) (s : State) : Result := loadWay (.fpr ft) rs imm s

/-- `SW R_t, imm(R_s)` (R252). -/
def execSw (rt rs : Reg) (imm : Word) (s : State) : Result := storeWay (.gpr rt) rs imm s

/-- `SWS F_t, imm(R_s)` (R253). -/
def execSws (ft rs : Reg) (imm : Word) (s : State) : Result := storeWay (.fpr ft) rs imm s

/-- `EOP` (R256). -/
def execEop (s : State) : Result := eopWay s

end Sys2Proof.Machine
end

