-- ==== Sys2Proof/Machine/Dispatch.lean ====
section
/-! DEFINITION. `exec i s` is the action of the instruction `i` in the phase of the cycle, and the slot, that `s.turn`
names (DESIGN CHOICE, log entry 1): issue, address generation, dispatch, countdown and compute, writeback or commit. The phases of
Sys2Proof/Machine/Cycle.lean give each instruction in flight its turn. -/

namespace Sys2Proof.Machine

def exec (i : Instr) (s : State) : Host.Outcome State Fault Refusal :=
  match i with
  | .lw rt rs imm => Sys2Proof.Machine.execLw rt rs imm s
  | .sw rt rs imm => Sys2Proof.Machine.execSw rt rs imm s
  | .add rd rs rt => Sys2Proof.Machine.execAdd rd rs rt s
  | .addi rd rs imm => Sys2Proof.Machine.execAddi rd rs imm s
  | .sub rd rs rt => Sys2Proof.Machine.execSub rd rs rt s
  | .subi rd rs imm => Sys2Proof.Machine.execSubi rd rs imm s
  | .xor rd rs rt => Sys2Proof.Machine.execXor rd rs rt s
  | .xori rd rs imm => Sys2Proof.Machine.execXori rd rs imm s
  | .or rd rs rt => Sys2Proof.Machine.execOr rd rs rt s
  | .ori rd rs imm => Sys2Proof.Machine.execOri rd rs imm s
  | .and rd rs rt => Sys2Proof.Machine.execAnd rd rs rt s
  | .andi rd rs imm => Sys2Proof.Machine.execAndi rd rs imm s
  | .mult rd rs rt => Sys2Proof.Machine.execMult rd rs rt s
  | .div rd rs rt => Sys2Proof.Machine.execDiv rd rs rt s
  | .beqz rs imm => Sys2Proof.Machine.execBeqz rs imm s
  | .bnez rs imm => Sys2Proof.Machine.execBnez rs imm s
  | .bltz rs imm => Sys2Proof.Machine.execBltz rs imm s
  | .bgtz rs imm => Sys2Proof.Machine.execBgtz rs imm s
  | .blez rs imm => Sys2Proof.Machine.execBlez rs imm s
  | .bgez rs imm => Sys2Proof.Machine.execBgez rs imm s
  | .jump imm => Sys2Proof.Machine.execJump imm s
  | .eop => Sys2Proof.Machine.execEop s
  | .lws ft rs imm => Sys2Proof.Machine.execLws ft rs imm s
  | .sws ft rs imm => Sys2Proof.Machine.execSws ft rs imm s
  | .adds fd fs ft => Sys2Proof.Machine.execAdds fd fs ft s
  | .subs fd fs ft => Sys2Proof.Machine.execSubs fd fs ft s
  | .mults fd fs ft => Sys2Proof.Machine.execMults fd fs ft s
  | .divs fd fs ft => Sys2Proof.Machine.execDivs fd fs ft s

end Sys2Proof.Machine
end

