-- ==== Sys2Proof/Machine/Cycle.lean ====
section
/-! DEFINITION. The phases of one cycle (43_pipeline_commit_squash.md R180), each giving the instructions in flight
their turn in the order the rules fix, and the cycle itself. Between steps the turn rests at `Turn.start`. -/

namespace Sys2Proof.Machine

/-- Give the instruction of record `r` its turn in phase `p`. A record whose opcode the table does not know is the
fault of R141 and 93 U7 (DEDUCED, log entry 13); the record check keeps such records out of the block. -/
def visit (p : Phase) (r : Record) (s : State) : Result :=
  match r.instr? with
  | some i => exec i (s.atPhase p)
  | none => .next ((s.atPhase p).raise .unknownOpcode r.pc 0)

/-! ## C, W -/

/-- C: the head's turn, if there is one (R160). -/
def commitPhase (s : State) : Result :=
  if s.rob.count = 0 then .next s else visit .commit s.headSlot.instr s

/-- Every slot writeback looks at: timed lanes by class and index, then bypass slots by index (R150). -/
def State.slotRefs (s : State) : List SlotRef :=
  (UnitClass.all.flatMap fun c => (List.range (s.cfg.lanes.get c)).map (SlotRef.timed c))
    ++ (List.range s.cfg.bypassSize).map SlotRef.bypass

/-- W for one slot: the turn of the instruction it serves, if it is done. -/
def writebackSlot (l : SlotRef) (s : State) : Result :=
  if (s.slotView l).done then visit (.writeback l) (s.entry (s.slotView l).rs).instr s else .next s

/-- W (R150). -/
def writebackPhase (s : State) : Result := forEach writebackSlot s.slotRefs s

/-! ## X1, X2, X3 -/

/-- X1 for entry `k` of `LOAD_B`. -/
def addressEntry (k : Nat) (s : State) : Result :=
  if (s.entry ⟨.loadB, k⟩).busy then visit (.address k) (s.entry ⟨.loadB, k⟩).instr s else .next s

/-- X1 (R122). -/
def addressPhase (s : State) : Result := forEach addressEntry (List.range (s.cfg.rsSize.get .loadB)) s

/-- The busy entries of class `c` in its pool whose own tag is `t`. -/
def State.entriesOfTag (s : State) (c : UnitClass) (t : Nat) : List RsRef :=
  ((List.range (s.cfg.rsSize.get c.pool)).map (RsRef.mk c.pool)).filter fun ref =>
    (s.entry ref).busy && (s.entry ref).instr.unitClass? == some c && (s.entry ref).tagD == t

/-- The busy entries of class `c` in its pool, oldest first by the age of their tag (R14, R130). -/
def State.entriesOldestFirst (s : State) (c : UnitClass) : List RsRef :=
  (s.tagsFrom s.cfg.robSize).flatMap fun t => s.entriesOfTag c t

/-- X2 for one entry. -/
def dispatchEntry (ref : RsRef) (s : State) : Result := visit (.dispatch ref) (s.entry ref).instr s

/-- X2 for one class. -/
def dispatchClass (c : UnitClass) (s : State) : Result := forEach dispatchEntry (s.entriesOldestFirst c) s

/-- X2 (R130): `memTimedIssued <- 0`, then the classes in order. -/
def dispatchPhase (s : State) : Result :=
  forEach dispatchClass UnitClass.all { s with turn := { s.turn with memTimedIssued := false } }

/-- X3 for one lane: the turn of the instruction it counts down (R140). -/
def countLane (c : UnitClass) (j : Nat) (s : State) : Result :=
  if (s.lane c j).busy && !(s.lane c j).done then visit (.complete c j) (s.entry (s.lane c j).rs).instr s else .next s

/-- X3 for one class. -/
def countClass (c : UnitClass) (s : State) : Result := forEach (countLane c) (List.range (s.cfg.lanes.get c)) s

/-- A bypass slot filled this cycle is done (R140, R144). -/
def BypSlot.finish (b : BypSlot) : BypSlot := if b.busy && !b.done then { b with done := true } else b

/-- X3 after the lanes: the bypass slots, then the memory completion port (R140, R145). -/
def finishCompletions (s : State) : Result :=
  let s := { s with byp := s.byp.map BypSlot.finish }
  if 1 < s.turn.memDone then .next (s.raise .memStructural 0 0) else .next s

/-- X3 (R140): `memDone <- 0`, the lanes by class and index, then the bypass slots and the port. -/
def countPhase (s : State) : Result :=
  andThen (forEach countClass UnitClass.all { s with turn := { s.turn with memDone := 0 } }) finishCompletions

/-! ## I, F -/

/-- `Fetch(pc)` (R105): none is out of bounds. -/
def State.fetch (s : State) : Option (BitVec 96) :=
  let d := (s.pc - s.cfg.base).toNat
  if d % 4 ≠ 0 then none else s.prog[d / 4]?

/-- The fault code of a record the check rejects (R303, R304). -/
def DecodeError.faultCode : DecodeError → FaultCode
  | .unknownOpcode => .unknownOpcode
  | .illegalRecord => .illegalRecord

/-- One pass of the issue loop (R103) up to the instruction's own action: the ROB check (R104), the fetch (R105), the
record check (R106). -/
def issueOne (s : State) : Result :=
  if s.robFull then .next s.stopIssue
  else
    match s.fetch with
    | none => .next (s.raise .fetchOob s.pc s.pc)
    | some w =>
      match (unpack w).check s.pc with
      | some e => .next (s.raise (DecodeError.faultCode e) s.pc 0)
      | none => visit (.issue (unpack w)) (unpack w) s

/-- The rest of the loop, unless the batch has ended. -/
def issueLoop : Nat → State → Result
  | 0, s => .next s
  | k + 1, s =>
    andThen (issueOne s) fun s => if s.turn.phase = .finalize then .next s else issueLoop k s

/-- I (R103): `n <- 0`, then at most `ISSUE_WIDTH` passes. -/
def issuePhase (s : State) : Result :=
  issueLoop s.cfg.issueWidth { s with turn := { s.turn with issued := 0 } }

/-- A reservation-station entry at F (R181). -/
def RsEntry.finalize (e : RsEntry) : RsEntry := if e.remove then { e with busy := false, remove := false } else e

/-- F (R181), and the turn put back to rest. -/
def finalizePhase (s : State) : Result :=
  .next { s.mapEntries RsEntry.finalize with turn := Turn.start }

/-- The end of a step that raised no fault: `CYCLE <- CYCLE + 1` (R180). -/
def tick (s : State) : Result := .next { s with cycle := s.cycle + 1 }

/-! ## The cycle -/

/-- C, W, X1, X2, X3: what runs before the issue stage of the cycle. -/
def beforeIssue (s : State) : Result :=
  andThen (andThen (andThen (andThen (commitPhase s) writebackPhase) addressPhase) dispatchPhase) countPhase

/-- I, F and the cycle count. -/
def fromIssue (s : State) : Result := andThen (andThen (issuePhase s) finalizePhase) tick

/-- One cycle of a block that has not faulted (R180). -/
def cycle (s : State) : Result := andThen (beforeIssue { s with turn := Turn.start }) fromIssue

/-- What `step()` does with a state of the block: a faulted block takes no step (R180, R301). -/
def stepBlock (s : State) : Result := if s.fault = .noFault then cycle s else .next s

/-- What stands in the way of running at all: a configuration that breaks R8 (93 U17), no program (93 U18), raw data
that is no state of the block (DESIGN CHOICE, log entry 4). -/
def stepChecked (s : State) : Result :=
  if s.cfg.wf = false then .refused .badConfiguration
  else if s.prog = [] then .refused .emptyProgram
  else if s.shaped = false then .fault .malformedState
  else stepBlock s

/-- The word the host places: the low `nbits` bits of `w`, every bit above them 0, but the `pc` field, which the fetch
needs (R89 check 5): a table row gives it no bits, so it is the fetch PC. -/
def placedWord (nbits w : Nat) (pc : Word) : BitVec 96 :=
  pack { unpack (BitVec.ofNat 96 (w % 2 ^ nbits)) with pc := pc }

/-- A program loaded where the block fetches next: the placed record at `pc`, then an `EOP` (DESIGN CHOICE, log entry 9). -/
def State.load (s : State) (nbits w : Nat) : State :=
  { s with cfg := { s.cfg with base := s.pc }, prog := [placedWord nbits w s.pc, encode .eop (s.pc + 4)] }

end Sys2Proof.Machine
end

