-- ==== Sys2Proof/Machine/Step.lean ====
section
/-! DEFINITION. The step: one cycle of the block (43_pipeline_commit_squash.md R180). -/

namespace Sys2Proof.Machine

/-- One `step()` of the block (R180). -/
def step (s : State) : Host.Outcome State Fault Refusal := stepChecked s

/-- The state with an instruction's word placed where `step` fetches next (DESIGN CHOICE, log entry 9). -/
def State.withFetchWord (s : State) (nbits w : Nat) : State := s.load nbits w

end Sys2Proof.Machine
end

