-- ==== Sys2Proof/Safety.lean ====
section
/-! DEFINITION. What claims about this block are stated in: a state that can run, a halted state, a safe run, and the
invariants the rules name. Every predicate is decidable on a concrete state. -/

namespace Sys2Proof.Machine

/-- A state `step` takes a cycle from: the configuration keeps R8, a program is loaded, the raw data is a state of the
block. -/
abbrev State.Runnable (s : State) : Prop := s.cfg.wf = true ∧ s.prog ≠ [] ∧ s.shaped = true

/-- The record fetched at `pc` is a well-formed `EOP`. -/
def State.atEop (s : State) : Bool :=
  match s.fetch with
  | some w => decode w s.pc == .ok .eop
  | none => false

/-- The block is halted (R184). -/
abbrev State.Halted (s : State) : Prop := s.fault = .noFault ∧ s.rob.count = 0 ∧ s.atEop = true

/-- A run of `k` steps that ends in a state without a fault. As a faulted block changes no more (R301), none was raised
on the way. -/
def SafeRun (k : Nat) (s : State) : Prop := ∃ t, Sys2Proof.core.run k s = .next t ∧ t.fault = .noFault

/-! ## What an instruction's form says (R83, R86), constructor by constructor -/

/-- The register an instruction writes at commit: none for stores, branches, `JUMP` and `EOP` (R83). -/
def dest? : Instr → Option RegName
  | .lw rt _ _ => some (.gpr rt)
  | .sw _ _ _ => none
  | .add rd _ _ => some (.gpr rd)
  | .addi rd _ _ => some (.gpr rd)
  | .sub rd _ _ => some (.gpr rd)
  | .subi rd _ _ => some (.gpr rd)
  | .xor rd _ _ => some (.gpr rd)
  | .xori rd _ _ => some (.gpr rd)
  | .or rd _ _ => some (.gpr rd)
  | .ori rd _ _ => some (.gpr rd)
  | .and rd _ _ => some (.gpr rd)
  | .andi rd _ _ => some (.gpr rd)
  | .mult rd _ _ => some (.gpr rd)
  | .div rd _ _ => some (.gpr rd)
  | .beqz _ _ => none
  | .bnez _ _ => none
  | .bltz _ _ => none
  | .bgtz _ _ => none
  | .blez _ _ => none
  | .bgez _ _ => none
  | .jump _ => none
  | .eop => none
  | .lws ft _ _ => some (.fpr ft)
  | .sws _ _ _ => none
  | .adds fd _ _ => some (.fpr fd)
  | .subs fd _ _ => some (.fpr fd)
  | .mults fd _ _ => some (.fpr fd)
  | .divs fd _ _ => some (.fpr fd)

/-- The first source register: the base of a memory operation, the tested register of a branch (R83). -/
def source1? : Instr → Option RegName
  | .lw _ rs _ => some (.gpr rs)
  | .sw _ rs _ => some (.gpr rs)
  | .add _ rs _ => some (.gpr rs)
  | .addi _ rs _ => some (.gpr rs)
  | .sub _ rs _ => some (.gpr rs)
  | .subi _ rs _ => some (.gpr rs)
  | .xor _ rs _ => some (.gpr rs)
  | .xori _ rs _ => some (.gpr rs)
  | .or _ rs _ => some (.gpr rs)
  | .ori _ rs _ => some (.gpr rs)
  | .and _ rs _ => some (.gpr rs)
  | .andi _ rs _ => some (.gpr rs)
  | .mult _ rs _ => some (.gpr rs)
  | .div _ rs _ => some (.gpr rs)
  | .beqz rs _ => some (.gpr rs)
  | .bnez rs _ => some (.gpr rs)
  | .bltz rs _ => some (.gpr rs)
  | .bgtz rs _ => some (.gpr rs)
  | .blez rs _ => some (.gpr rs)
  | .bgez rs _ => some (.gpr rs)
  | .jump _ => none
  | .eop => none
  | .lws _ rs _ => some (.gpr rs)
  | .sws _ rs _ => some (.gpr rs)
  | .adds _ fs _ => some (.fpr fs)
  | .subs _ fs _ => some (.fpr fs)
  | .mults _ fs _ => some (.fpr fs)
  | .divs _ fs _ => some (.fpr fs)

/-- The second source register: the data of a store (R83). -/
def source2? : Instr → Option RegName
  | .lw _ _ _ => none
  | .sw rt _ _ => some (.gpr rt)
  | .add _ _ rt => some (.gpr rt)
  | .addi _ _ _ => none
  | .sub _ _ rt => some (.gpr rt)
  | .subi _ _ _ => none
  | .xor _ _ rt => some (.gpr rt)
  | .xori _ _ _ => none
  | .or _ _ rt => some (.gpr rt)
  | .ori _ _ _ => none
  | .and _ _ rt => some (.gpr rt)
  | .andi _ _ _ => none
  | .mult _ _ rt => some (.gpr rt)
  | .div _ _ rt => some (.gpr rt)
  | .beqz _ _ => none
  | .bnez _ _ => none
  | .bltz _ _ => none
  | .bgtz _ _ => none
  | .blez _ _ => none
  | .bgez _ _ => none
  | .jump _ => none
  | .eop => none
  | .lws _ _ _ => none
  | .sws ft _ _ => some (.fpr ft)
  | .adds _ _ ft => some (.fpr ft)
  | .subs _ _ ft => some (.fpr ft)
  | .mults _ _ ft => some (.fpr ft)
  | .divs _ _ ft => some (.fpr ft)

/-- The unit class (R86, R88): none for `EOP`. -/
def classOf? : Instr → Option UnitClass
  | .lw _ _ _ => some .memory
  | .sw _ _ _ => some .memory
  | .add _ _ _ => some .integer
  | .addi _ _ _ => some .integer
  | .sub _ _ _ => some .integer
  | .subi _ _ _ => some .integer
  | .xor _ _ _ => some .integer
  | .xori _ _ _ => some .integer
  | .or _ _ _ => some .integer
  | .ori _ _ _ => some .integer
  | .and _ _ _ => some .integer
  | .andi _ _ _ => some .integer
  | .mult _ _ _ => some .multiplier
  | .div _ _ _ => some .divider
  | .beqz _ _ => some .integer
  | .bnez _ _ => some .integer
  | .bltz _ _ => some .integer
  | .bgtz _ _ => some .integer
  | .blez _ _ => some .integer
  | .bgez _ _ => some .integer
  | .jump _ => some .integer
  | .eop => none
  | .lws _ _ _ => some .memory
  | .sws _ _ _ => some .memory
  | .adds _ _ _ => some .adder
  | .subs _ _ _ => some .adder
  | .mults _ _ _ => some .multiplier
  | .divs _ _ _ => some .divider

/-- A load (R86: `is_load`). -/
def isLoad : Instr → Bool
  | .lw _ _ _ => true
  | .lws _ _ _ => true
  | _ => false

/-- A store (R86: `is_store`). -/
def isStore : Instr → Bool
  | .sw _ _ _ => true
  | .sws _ _ _ => true
  | _ => false

/-- A branch or `JUMP` (R86: `is_branch`). -/
def isBranch : Instr → Bool
  | .beqz _ _ => true
  | .bnez _ _ => true
  | .bltz _ _ => true
  | .bgtz _ _ => true
  | .blez _ _ => true
  | .bgez _ _ => true
  | .jump _ => true
  | _ => false

/-- The immediate of a form that uses it, 0 otherwise (R83, R84). -/
def immOf : Instr → Word
  | .lw _ _ imm => imm
  | .sw _ _ imm => imm
  | .addi _ _ imm => imm
  | .subi _ _ imm => imm
  | .xori _ _ imm => imm
  | .ori _ _ imm => imm
  | .andi _ _ imm => imm
  | .beqz _ imm => imm
  | .bnez _ imm => imm
  | .bltz _ imm => imm
  | .bgtz _ imm => imm
  | .blez _ imm => imm
  | .bgez _ imm => imm
  | .jump imm => imm
  | .lws _ _ imm => imm
  | .sws _ _ imm => imm
  | _ => 0

/-! ## Invariants of a block that has not faulted, between steps -/

/-- Every register of both banks. -/
def RegName.all : List RegName := (List.finRange 32).map .gpr ++ (List.finRange 32).map .fpr

/-- Every reservation-station entry. -/
def State.entryRefs (s : State) : List RsRef :=
  Pool.all.flatMap fun p => (List.range (s.cfg.rsSize.get p)).map (RsRef.mk p)

/-- The register the instruction of a record writes. -/
def destOfRecord (r : Record) : Option RegName := r.instr?.bind dest?

/-- The ring (R30): `tail = (head + count) mod ROB_SIZE`, and the live slots are exactly the live tags. -/
abbrev State.RingOk (s : State) : Prop :=
  s.rob.tail = (s.rob.head + s.rob.count) % s.cfg.robSize ∧
  ∀ t ∈ List.range s.cfg.robSize, ((s.slot t).live = true ↔ t ∈ s.liveTags)

/-- The register invariant (R25): a busy register's tag is live, its record writes that register, and no younger live
instruction does. -/
abbrev State.RegTagsOk (s : State) : Prop :=
  ∀ r ∈ RegName.all, (s.reg r).busy = true →
    (s.reg r).tag ∈ s.liveTags ∧ destOfRecord (s.slot (s.reg r).tag).instr = some r ∧
    ∀ t ∈ s.liveTags, destOfRecord (s.slot t).instr = some r → s.age t ≤ s.age (s.reg r).tag

/-- A lane is free, counting or done (R41). -/
abbrev Lane.Legal (l : Lane) (lat : Nat) : Prop :=
  (l.busy = false ∧ l.ttl = 0 ∧ l.done = false) ∨
  (l.busy = true ∧ 0 < l.ttl ∧ l.ttl ≤ lat ∧ l.done = false) ∨
  (l.busy = true ∧ l.ttl = 0 ∧ l.done = true)

/-- Every lane is free, counting or done, and every bypass slot is free or done (R41, R144). -/
abbrev State.LanesLegal (s : State) : Prop :=
  (∀ c ∈ UnitClass.all, ∀ l ∈ s.lanes.get c, l.Legal (s.cfg.lat.get c)) ∧
  ∀ b ∈ s.byp, b.busy = b.done

/-- The entry a slot serves belongs to the slot's unit: a timed lane's class, or `MEMORY` for a bypass slot. -/
def SlotRef.unit : SlotRef → UnitClass
  | .timed c _ => c
  | .bypass _ => .memory

/-- The lane and bypass invariants (R42, R43): a busy slot serves a busy entry in execution, of its class and in its
class's pool, and no two busy slots serve the same entry. -/
abbrev State.SlotsOk (s : State) : Prop :=
  (∀ l ∈ s.slotRefs, (s.slotView l).busy = true →
    (s.entry (s.slotView l).rs).busy = true ∧ (s.entry (s.slotView l).rs).inExec = true ∧
    (s.entry (s.slotView l).rs).instr.unitClass? = some l.unit ∧ (s.slotView l).rs.pool = l.unit.pool) ∧
  ∀ l ∈ s.slotRefs, ∀ l' ∈ s.slotRefs, (s.slotView l).busy = true → (s.slotView l').busy = true →
    (s.slotView l).rs = (s.slotView l').rs → l = l'

/-- The reservation-station invariants that hold through the whole cycle (R36, R38): a busy entry's own tag is live, its
slot holds the same record, the record's class uses the entry's pool, and no two busy entries have the same tag. -/
abbrev State.PoolsOk (s : State) : Prop :=
  (∀ r ∈ s.entryRefs, (s.entry r).busy = true →
    (s.entry r).tagD ∈ s.liveTags ∧ (s.slot (s.entry r).tagD).instr = (s.entry r).instr ∧
    (s.entry r).instr.unitClass?.map UnitClass.pool = some r.pool) ∧
  ∀ r ∈ s.entryRefs, ∀ r' ∈ s.entryRefs, (s.entry r).busy = true → (s.entry r').busy = true →
    (s.entry r).tagD = (s.entry r').tagD → r = r'

/-- The reservation-station invariants between steps (R38): besides, a busy entry's slot is not ready yet and nothing is
marked for removal. -/
abbrev State.EntriesOk (s : State) : Prop :=
  s.PoolsOk ∧
  ∀ r ∈ s.entryRefs, (s.entry r).remove = false ∧
    ((s.entry r).busy = true → (s.slot (s.entry r).tagD).ready = false)

/-- The in-flight invariant: the ring, the lanes and the reservation stations agree (R30, R38, R41, R42). -/
abbrev State.InFlightOk (s : State) : Prop := s.RingOk ∧ s.LanesLegal ∧ s.SlotsOk ∧ s.EntriesOk

/-- The part of the in-flight invariant that holds in the middle of a cycle too. -/
abbrev State.TablesOk (s : State) : Prop := s.RingOk ∧ s.PoolsOk ∧ s.SlotsOk

/-- No two loads count down to zero in the same cycle (R134): the timed memory lanes in countdown have different `ttl`,
all below `LAT[MEMORY]`. -/
abbrev State.LoadsStaggered (s : State) : Prop :=
  (∀ l ∈ s.lanes.memory, l.busy = true → l.done = false → l.ttl < s.cfg.lat.memory) ∧
  s.lanes.memory.Pairwise fun l l' =>
    l.busy = true → l.done = false → l'.busy = true → l'.done = false → l.ttl ≠ l'.ttl

/-- What a pending operand waits on (R101, R155): a live tag, older than the waiting instruction's own, whose result has
not been broadcast. -/
abbrev State.WaitsFor (s : State) (o : Operand) (tagD : Nat) : Prop :=
  o.ready = false → o.tag ∈ s.liveTags ∧ s.age o.tag < s.age tagD ∧ (s.slot o.tag).ready = false

/-- Every pending operand of a busy entry waits on a result still to come (R101, R155). -/
abbrev State.WaitsOk (s : State) : Prop :=
  ∀ r ∈ s.entryRefs, (s.entry r).busy = true →
    s.WaitsFor (s.entry r).op1 (s.entry r).tagD ∧ s.WaitsFor (s.entry r).op2 (s.entry r).tagD

/-- The ring and the register tags (R25, R30). -/
abbrev State.RegsOk (s : State) : Prop := s.RingOk ∧ s.RegTagsOk

/-- Nothing is in flight (R184: "an empty ROB implies empty pools and free lanes"), and the turn is at rest. -/
abbrev State.Idle (s : State) : Prop :=
  s.rob.count = 0 ∧ (∀ p ∈ Pool.all, ∀ e ∈ s.rs.get p, e.busy = false ∧ e.remove = false) ∧
  (∀ c ∈ UnitClass.all, ∀ l ∈ s.lanes.get c, l.busy = false ∧ l.done = false) ∧
  (∀ b ∈ s.byp, b.busy = false ∧ b.done = false) ∧ s.turn = Turn.start

/-! ## Frames: which parts of the state an action leaves alone -/

/-- The parts of `State`, one per field. -/
inductive Part where
  | cfg | prog | gpr | fpr | pc | rob | rs | lanes | byp | memBlock | mem | cycle | committed | nextId | fault | faultPc
  | faultAddr | turn
  deriving DecidableEq, Repr

/-- The part is the same in both states. -/
def Part.same : Part → State → State → Prop
  | .cfg, s, t => t.cfg = s.cfg
  | .prog, s, t => t.prog = s.prog
  | .gpr, s, t => t.gpr = s.gpr
  | .fpr, s, t => t.fpr = s.fpr
  | .pc, s, t => t.pc = s.pc
  | .rob, s, t => t.rob = s.rob
  | .rs, s, t => t.rs = s.rs
  | .lanes, s, t => t.lanes = s.lanes
  | .byp, s, t => t.byp = s.byp
  | .memBlock, s, t => t.memBlock = s.memBlock
  | .mem, s, t => t.mem = s.mem
  | .cycle, s, t => t.cycle = s.cycle
  | .committed, s, t => t.committed = s.committed
  | .nextId, s, t => t.nextId = s.nextId
  | .fault, s, t => t.fault = s.fault
  | .faultPc, s, t => t.faultPc = s.faultPc
  | .faultAddr, s, t => t.faultAddr = s.faultAddr
  | .turn, s, t => t.turn = s.turn

/-- Every part but the listed ones is unchanged from `s` to `t`. -/
def State.SameExcept (s t : State) (parts : List Part) : Prop := ∀ p : Part, p ∉ parts → p.same s t

/-- The byte of a word at offset `j` (R62: `v[8j+7:8j]`). -/
def byteOf (v : Word) (j : Nat) : Byte := v.extractLsb' (8 * j) 8

/-! ## The turn of an instruction, in the words of the rules -/

/-- It is the turn of the instruction in lane `j` of class `c`, and its countdown reaches zero in this X3 (R140). -/
abbrev State.Finishing (s : State) (c : UnitClass) (j : Nat) : Prop :=
  s.turn.phase = .complete c j ∧ (s.lane c j).busy = true ∧ (s.lane c j).done = false ∧ (s.lane c j).ttl = 1

/-- The entry lane `j` of class `c` serves. -/
def State.served (s : State) (c : UnitClass) (j : Nat) : RsEntry := s.entry (s.lane c j).rs

/-- `s` with lane `j` of class `c` replaced and nothing else changed. -/
def State.laneAs (s : State) (c : UnitClass) (j : Nat) (l : Lane) : State :=
  { s with lanes := s.lanes.set c ((s.lanes.get c).set j l) }

/-- `s` with lane `j` of class `c` done, holding `v` and the branch outcome `taken`, and nothing else changed. -/
def State.laneDone (s : State) (c : UnitClass) (j : Nat) (v : Word) (taken : Bool) : State :=
  s.laneAs c j { s.lane c j with ttl := 0, result := v, misPred := taken, done := true }

/-- `s` with lane `j` of class `c` counted down to zero, without a result, and the fault registers written. -/
def State.laneFaults (s : State) (c : UnitClass) (j : Nat) (f : FaultCode) (pc addr : Word) : State :=
  { s.laneAs c j { s.lane c j with ttl := 0 } with fault := f, faultPc := pc, faultAddr := addr }

/-- `s` with the entry `ref` in execution, and the stage marker of its ROB slot at `EXECUTE` with the number of this
cycle (R131, R132), and nothing else changed. -/
def State.executing (s : State) (ref : RsRef) : State :=
  let e := s.entry ref
  let x := s.slot e.tagD
  { s with
    rs := s.rs.set ref.pool ((s.rs.get ref.pool).set ref.idx { e with inExec := true })
    rob :=
      { s.rob with
        slots := s.rob.slots.set e.tagD { x with stage := .execute, ts := { x.ts with execute := s.cycle + 1 } } } }

/-- It is the turn of the ROB head, which is ready (R160). -/
abbrev State.Committing (s : State) : Prop :=
  s.turn.phase = .commit ∧ s.rob.count ≠ 0 ∧ s.headSlot.ready = true ∧ s.rob.head < s.rob.slots.length

/-- The head's slot as commit stamps it (R160): the stage marker and, where it was not yet set, its time. Every other
field is the head's. -/
def State.stampedHead (s : State) : RobSlot :=
  { s.headSlot with
    stage := .commit
    ts := if s.headSlot.stage = .commit then s.headSlot.ts else { s.headSlot.ts with commit := s.cycle + 1 } }

/-- The commit cycles the store at the head still has to go, this one included (R164). -/
def State.storeCyclesLeft (s : State) : Nat := s.headSlot.stctr.getD s.cfg.lat.memory

/-- The slot at logical position `j`: age `j` (R14, R320). -/
def State.slotAtAge (s : State) (j : Nat) : RobSlot := s.slot ((s.rob.head + j) % s.cfg.robSize)

/-- An older slot the scan of R136 passes over: no store, or a store to a known, different address. -/
abbrev RobSlot.Transparent (x : RobSlot) (a : Word) : Prop :=
  x.instr.opIsStore = true → x.addrKnown = true ∧ x.addr ≠ a

/-! ## What a whole phase leaves -/

/-- The slots whose results writeback broadcasts (R150). -/
def State.doneSlots (s : State) : List SlotRef := s.slotRefs.filter fun l => (s.slotView l).done

/-- The tag a slot's result is broadcast with (R150). -/
def State.tagOf (s : State) (l : SlotRef) : Nat := (s.entry (s.slotView l).rs).tagD

/-- A busy entry's operand after every broadcast of the cycle (R150, R151). -/
def State.heard (s : State) (o : Operand) : Operand :=
  if o.ready then o
  else
    match s.doneSlots.find? fun l => s.tagOf l == o.tag with
    | some l => ⟨true, (s.slotView l).result, 0⟩
    | none => o

/-- An entry whose address X1 computes (R122). -/
abbrev RsEntry.NeedsAddress (e : RsEntry) : Prop :=
  e.busy = true ∧ e.inExec = false ∧ e.op1.ready = true ∧ e.addrKnown = false

/-- An entry X2 offers a lane of class `c` (R120, R130). -/
abbrev State.Offered (s : State) (c : UnitClass) (ref : RsRef) : Prop :=
  ref.pool = c.pool ∧ (s.entry ref).instr.unitClass? = some c ∧ (s.entry ref).busy = true ∧
  (s.entry ref).inExec = false ∧ (s.entry ref).op1.ready = true ∧ (s.entry ref).op2.ready = true

/-- `q` is the list of the entries offered a lane of class `c`, from oldest to youngest (R14, R130). -/
abbrev State.Queue (s : State) (c : UnitClass) (q : List RsRef) : Prop :=
  (q.Pairwise fun x y => s.age (s.entry x).tagD < s.age (s.entry y).tagD) ∧
  (∀ ref ∈ q, ref ∈ s.entryRefs) ∧ ∀ ref ∈ s.entryRefs, (ref ∈ q ↔ s.Offered c ref)

/-- The free lanes, in the order of their index, filled from a queue in its order (R131). -/
def fillLanes (lat : Nat) : List Lane → List RsRef → List Lane
  | l :: ls, r :: rs =>
    if l.busy then l :: fillLanes lat ls (r :: rs) else ⟨true, r, lat, 0, false, false⟩ :: fillLanes lat ls rs
  | ls, _ => ls

/-- The free bypass slots, in the order of their index, filled with entries and their data (R132). -/
def fillByp : List BypSlot → List (RsRef × Word) → List BypSlot
  | b :: bs, x :: xs => if b.busy then b :: fillByp bs (x :: xs) else ⟨true, x.1, x.2, false⟩ :: fillByp bs xs
  | bs, _ => bs

/-- The data a memory operation takes into the bypass array: a store's own, or what an older store forwards to a load
(R132, R133). -/
def State.bypassData (s : State) (ref : RsRef) : Option Word :=
  if (s.entry ref).instr.opIsStore then some (s.entry ref).op2.value
  else
    match s.disambiguate (s.entry ref) with
    | .bypass v => some v
    | _ => none

/-- A load that needs memory (R133). -/
def State.needsMemory (s : State) (ref : RsRef) : Bool :=
  !(s.entry ref).instr.opIsStore && s.disambiguate (s.entry ref) == .clear

/-- The entries of the queues that want a timed lane of class `c`: all of them, but of class `MEMORY` only the oldest
load that needs memory, and none under `memBlock` (R133, R134). -/
def State.wantLane (s : State) (q : UnitClass → List RsRef) (c : UnitClass) : List RsRef :=
  if c = .memory then if s.memBlock then [] else ((q .memory).filter s.needsMemory).take 1 else q c

/-- The entries of the memory queue that want a bypass slot, with their data. -/
def State.wantBypass (s : State) (q : UnitClass → List RsRef) : List (RsRef × Word) :=
  (q .memory).filterMap fun ref => (s.bypassData ref).map fun v => (ref, v)

/-- The entries X2 puts into execution: as many of those that want a lane of a class as it has free ones, and all that
want a bypass slot (R43). -/
def State.started (s : State) (q : UnitClass → List RsRef) : List RsRef :=
  (UnitClass.all.flatMap fun c => (s.wantLane q c).take ((s.lanes.get c).filter fun l => !l.busy).length)
    ++ (s.wantBypass q).map Prod.fst

/-- Lane `j'` of class `c'` has its turn in X3 before lane `j` of class `c` (R140). -/
abbrev laneBefore (c' : UnitClass) (j' : Nat) (c : UnitClass) (j : Nat) : Prop :=
  UnitClass.all.idxOf c' < UnitClass.all.idxOf c ∨ (c' = c ∧ j' < j)

/-- What the turn of a lane in X3 leaves, taken alone from `s`. -/
def State.laneTurn (s : State) (c : UnitClass) (j : Nat) : State :=
  match countLane c j s with
  | .next u => u
  | _ => s

/-- The loads whose countdown ends in this X3 (R140, R145). -/
def State.loadsEnding (s : State) : Nat :=
  (s.lanes.memory.filter fun l => l.busy && !l.done && decide (l.ttl < 2)).length

/-! ## Records that say the same -/

/-- Two slots say the same: both invalid, or both valid and the same register of the same bank (R91). -/
abbrev SlotAgrees (x y : Slot) : Prop := x.v = y.v ∧ (x.v = true → x = y)

/-- The form of the instruction uses the immediate (R83). -/
def usesImm : Instr → Bool
  | .lw _ _ _ => true
  | .sw _ _ _ => true
  | .addi _ _ _ => true
  | .subi _ _ _ => true
  | .xori _ _ _ => true
  | .ori _ _ _ => true
  | .andi _ _ _ => true
  | .beqz _ _ => true
  | .bnez _ _ => true
  | .bltz _ _ => true
  | .bgtz _ _ => true
  | .blez _ _ => true
  | .bgez _ _ => true
  | .jump _ => true
  | .lws _ _ _ => true
  | .sws _ _ _ => true
  | _ => false

/-- A record that is instruction `i`'s at address `pc`, but for the fields R91 says are ignored. -/
abbrev RecordSays (r : Record) (i : Instr) (pc : Word) : Prop :=
  r.op = (i.record pc).op ∧ SlotAgrees r.dst (i.record pc).dst ∧ SlotAgrees r.src1 (i.record pc).src1 ∧
  SlotAgrees r.src2 (i.record pc).src2 ∧ r.isLoad = isLoad i ∧ r.isStore = isStore i ∧ r.isBranch = isBranch i ∧
  r.reserved = 0 ∧ r.pc = pc ∧ (usesImm i = true → r.imm = immOf i)

/-! ## Binary32 in rational numbers (47_float_ops.md R265) -/

/-- The rational a finite pattern stands for. -/
def finiteValue (w : Word) : Option ℚ :=
  match floatVal w with
  | .fin neg m e => some ((if neg then -1 else 1) * (m : ℚ) * (2 : ℚ) ^ e)
  | _ => none

/-- Magnitudes from here on round above the largest finite value: halfway from it, `2^128 - 2^104`, to `2^128`. -/
def overflowBound : ℚ := 2 ^ 128 - 2 ^ 103

/-- `w` is the exact result `q` rounded once to binary32, to nearest, ties to even (R265): no finite pattern is nearer;
where one is as near, `w`'s last bit is 0; the sign is that of `q` where `q` is not zero; a magnitude that rounds above
the largest finite value is the infinity of its sign. -/
def Rounded (q : ℚ) (w : Word) : Prop :=
  if |q| < overflowBound then
    ∃ x, finiteValue w = some x ∧
      (∀ v y, finiteValue v = some y → |x - q| ≤ |y - q|) ∧
      (∀ v y, finiteValue v = some y → y ≠ x → |x - q| = |y - q| → w.getLsbD 0 = false) ∧
      (q ≠ 0 → w.getLsbD 31 = decide (q < 0))
  else w = if q < 0 then 0xFF800000 else 0x7F800000

/-- The word `-0` or `+0`. -/
def signedZero (neg : Bool) : Word := if neg then 0x80000000 else 0

/-- The word of an infinity. -/
def signedInf (neg : Bool) : Word := if neg then 0xFF800000 else 0x7F800000

/-- The sign bit of a pattern. -/
def signOf (w : Word) : Bool := w.getLsbD 31

/-- A pattern of an infinity. -/
def isInf (w : Word) : Bool := w == signedInf (signOf w)

/-- A pattern of a zero. -/
def isZero (w : Word) : Bool := w == signedZero (signOf w)

/-- A NaN pattern: the exponent field all ones and a fraction that is not zero. -/
def isNan (w : Word) : Bool := w.extractLsb' 23 8 == 0xFF && w.extractLsb' 0 23 != 0

/-- Where IEEE 754 gives a NaN (R266): an operand is a NaN, or the operation is invalid. -/
def givesNan : FloatOp → Word → Word → Bool
  | .adds, a, b => isNan a || isNan b || (isInf a && isInf b && signOf a != signOf b)
  | .subs, a, b => isNan a || isNan b || (isInf a && isInf b && signOf a == signOf b)
  | .mults, a, b => isNan a || isNan b || (isZero a && isInf b) || (isInf a && isZero b)
  | .divs, a, b => isNan a || isNan b || (isZero a && isZero b) || (isInf a && isInf b)

/-! ## The sequential machine of the consistency guarantee (20_memory.md R71) -/

/-- What a program sees: the committed register values, the address of the next instruction, data memory. -/
structure Arch where
  reg : RegName → Word
  pc : Word
  mem : Memory

/-- The committed side of a block. -/
def State.arch (s : State) (pc : Word) : Arch := ⟨fun r => (s.reg r).value, pc, s.mem⟩

/-- The word an instruction computes from its two source words, for the instructions that compute one (44, 47). None
where it faults, or computes none. -/
def aluWord (cfg : Config) (i : Instr) (a b : Word) : Option Word :=
  match i with
  | .add _ _ _ => some (a + b)
  | .addi _ _ imm => some (a + imm)
  | .sub _ _ _ => some (a - b)
  | .subi _ _ imm => some (a - imm)
  | .xor _ _ _ => some (a ^^^ b)
  | .xori _ _ imm => some (a ^^^ imm)
  | .or _ _ _ => some (a ||| b)
  | .ori _ _ imm => some (a ||| imm)
  | .and _ _ _ => some (a &&& b)
  | .andi _ _ imm => some (a &&& imm)
  | .mult _ _ _ => some (a * b)
  | .div _ _ _ =>
    if b = 0 ∨ (cfg.divSigned = true ∧ a = 0x80000000 ∧ b = 0xFFFFFFFF) then none
    else some (if cfg.divSigned then a.sdiv b else a / b)
  | .adds _ _ _ => some (floatCompute cfg.fpNan .adds a b)
  | .subs _ _ _ => some (floatCompute cfg.fpNan .subs a b)
  | .mults _ _ _ => some (floatCompute cfg.fpNan .mults a b)
  | .divs _ _ _ => some (floatCompute cfg.fpNan .divs a b)
  | _ => none

/-- Whether a branch is taken on the tested word (R231 to R237). -/
def branchTaken (i : Instr) (a : Word) : Bool :=
  match i with
  | .beqz _ _ => a == 0
  | .bnez _ _ => a != 0
  | .bltz _ _ => decide (a.toInt < 0)
  | .bgtz _ _ => decide (0 < a.toInt)
  | .blez _ _ => decide (a.toInt ≤ 0)
  | .bgez _ _ => decide (0 ≤ a.toInt)
  | .jump _ => true
  | _ => false

/-- One instruction executed alone, in program order. None where it faults, and at `EOP`, which is not executed. -/
def archExec (cfg : Config) (i : Instr) (a : Arch) : Option Arch :=
  let x := ((source1? i).map a.reg).getD 0
  let y := ((source2? i).map a.reg).getD 0
  let ea := x + immOf i
  if i = .eop then none
  else if isLoad i = true ∨ isStore i = true then
    if ea.toNat % 4 ≠ 0 ∨ cfg.memSize < ea.toNat + 4 then none
    else if isStore i = true then some { a with pc := a.pc + 4, mem := a.mem.writeWord ea.toNat y }
    else
      some { a with pc := a.pc + 4,
                    reg := fun r => if dest? i = some r then a.mem.readWord ea.toNat else a.reg r }
  else if isBranch i = true then
    some { a with pc := if branchTaken i x then a.pc + 4 + immOf i else a.pc + 4 }
  else
    (aluWord cfg i x y).map fun v =>
      { a with pc := a.pc + 4, reg := fun r => if dest? i = some r then v else a.reg r }

/-- The record at an address, decoded. -/
def archFetch (cfg : Config) (prog : List (BitVec 96)) (pc : Word) : Option Instr :=
  if (pc - cfg.base).toNat % 4 ≠ 0 then none
  else
    match prog[(pc - cfg.base).toNat / 4]? with
    | some w => (decode w pc).toOption
    | none => none

/-- The first `n` instructions of a program, one at a time in program order. -/
def archRun (cfg : Config) (prog : List (BitVec 96)) : Nat → Arch → Option Arch
  | 0, a => some a
  | n + 1, a =>
    match archFetch cfg prog a.pc with
    | some i =>
      match archExec cfg i a with
      | some a' => archRun cfg prog n a'
      | none => none
    | none => none

end Sys2Proof.Machine
end

