-- ==== Sys2Proof/Certificates/Slice0/Obligations.lean ====
section
/-! DEFINITION. The statements for the provers. `exec i s` is the action of `i` in the phase and slot `s.turn` names (log
entry 1); a phase named in a statement is that turn. Where a statement gives the whole next state as a record update,
every field it does not list is unchanged; where it lists fields, `SameExcept` says that every other part is unchanged,
all of memory included. -/

open Sys2Proof Sys2Proof.Machine

/-! ## Encoding (30_encoding.md) -/

/-- Control words of every form, written out from the bit table of R82, decode to their instructions. The words are
those of 95_test_vectors.md section 2. -/
def Obligations.SampleWordsDecode : Prop :=
  decode 0x000000000000000500040823 0 = .ok (.addi 1 0 5) ∧
  decode 0x000000080000000002141862 8 = .ok (.add 3 1 2) ∧
  decode 0x0000000C0000000000000015 12 = .ok .eop ∧
  decode 0x00000000000000000A0C2001 0 = .ok (.sw 1 2 0) ∧
  decode 0x000000040000000004042860 4 = .ok (.lw 3 2 0) ∧
  decode 0x00000004000000081004100F 4 = .ok (.bnez 1 8) ∧
  decode 0x000000000000000410000014 0 = .ok (.jump 4) ∧
  decode 0x00000004000000000204184D 4 = .ok (.div 2 1 0) ∧
  decode 0x000000000000000004040C36 0 = .ok (.lws 1 0 0) ∧
  decode 0x000000080000000003161C78 8 = .ok (.adds 3 1 2) ∧
  decode 0x0000000C000000080B1C0017 12 = .ok (.sws 3 0 8)

/-- Decoding an encoded instruction gives it back, at every address and with every operand. -/
def Obligations.DecodeOfEncode : Prop :=
  ∀ (i : Instr) (pc : Word), decode (encode i pc) pc = .ok i

/-- A word decodes to `i` exactly when its record is `i`'s but for the ignored fields (R83, R86, R89, R91): no reserved
encoding is accepted, none is read as a neighbour's, and no ignored bit matters. -/
def Obligations.DecodesExactlyItsRecords : Prop :=
  ∀ (w : BitVec 96) (pc : Word) (i : Instr), decode w pc = .ok i ↔ RecordSays (unpack w) i pc

/-- The record check at issue (R89, R106): an opcode of 28 or more is `UNKNOWN_OPCODE`, whatever its other fields; a
known opcode whose record is no instruction's is `ILLEGAL_RECORD`; any other record runs its instruction. -/
def Obligations.RecordCheckAtIssue : Prop :=
  ∀ (s : State) (w : BitVec 96), s.rob.count ≠ s.cfg.robSize → s.fetch = some w →
    (28 ≤ (unpack w).op.toNat →
      issueOne s = .next { s with fault := .unknownOpcode, faultPc := s.pc, faultAddr := 0 }) ∧
    ((unpack w).op.toNat < 28 → (∀ i, ¬ RecordSays (unpack w) i s.pc) →
      issueOne s = .next { s with fault := .illegalRecord, faultPc := s.pc, faultAddr := 0 }) ∧
    ∀ i, RecordSays (unpack w) i s.pc → issueOne s = exec i (s.atPhase (.issue (unpack w)))

/-! ## Issue (40_pipeline_issue.md) -/

/-- Fetch (R105, R302): with `d = (pc - BASE) mod 2^32`, a `d` that is no multiple of 4 or lies at or past the end of
the program raises `FETCH_OOB` with the fetch PC in both info registers; any other fetches `PROG[d / 4]`. -/
def Obligations.FetchInsideTheProgram : Prop :=
  ∀ s : State, s.rob.count ≠ s.cfg.robSize →
    ((((s.pc - s.cfg.base).toNat % 4 ≠ 0 ∨ s.prog.length ≤ (s.pc - s.cfg.base).toNat / 4) →
      s.fetch = none ∧ issueOne s = .next { s with fault := .fetchOob, faultPc := s.pc, faultAddr := s.pc }) ∧
    ∀ w, (s.pc - s.cfg.base).toNat % 4 = 0 → s.prog[(s.pc - s.cfg.base).toNat / 4]? = some w → s.fetch = some w)

/-- A full ROB stops issue without a fetch, so without a fault (R104): the record at `pc` does not matter. -/
def Obligations.FullRobStopsBeforeFetch : Prop :=
  ∀ s : State, s.rob.count = s.cfg.robSize →
    issueOne s = .next { s with turn := { s.turn with phase := .finalize } }

/-- An instruction with room is issued whole (R109 to R113): the ROB slot at the tail; the lowest free entry of its
pool, its sources renamed after the slot is allocated; then the destination's tag and busy bit; `pc + 4`; a branch ends
the batch. Every instruction but `EOP`. -/
def Obligations.IssueAllocatesWhole : Prop :=
  ∀ (s : State) (i : Instr) (r : Record) (c : UnitClass) (k : Nat),
    s.turn.phase = .issue r → classOf? i = some c → s.rob.count ≠ s.cfg.robSize →
    k < (s.rs.get c.pool).length → (s.entry ⟨c.pool, k⟩).busy = false →
    (∀ m < k, (s.entry ⟨c.pool, m⟩).busy = true) →
    ∃ t ts, exec i s = .next t ∧ ts.issue = s.cycle + 1 ∧
      t.rob =
        { slots := s.rob.slots.set s.rob.tail
            { live := true, instr := r, ready := false, value := 0, addr := 0, addrKnown := false, misPred := false,
              stctr := none, stage := .issue, ts := ts }
          head := s.rob.head
          tail := (s.rob.tail + 1) % s.cfg.robSize
          count := s.rob.count + 1 } ∧
      t.rs = s.rs.set c.pool ((s.rs.get c.pool).set k
        { busy := true, instr := r
          op1 := match source1? i with
            | none => ⟨true, 0, 0⟩
            | some q => (s.allocRob r).rename q
          op2 := match source2? i with
            | none => ⟨true, 0, 0⟩
            | some q => (s.allocRob r).rename q
          tagD := s.rob.tail, addr := 0, addrKnown := false, inExec := false, id := s.nextId, remove := false }) ∧
      (∀ q, t.reg q = if dest? i = some q then { s.reg q with busy := true, tag := s.rob.tail } else s.reg q) ∧
      t.pc = s.pc + 4 ∧ t.nextId = s.nextId + 1 ∧
      t.turn = { s.turn with phase := if isBranch i then .finalize else .issue r, issued := s.turn.issued + 1 } ∧
      s.SameExcept t [.rob, .rs, .gpr, .fpr, .pc, .nextId, .turn]

/-- Rename (R100): a register that is not busy gives its committed value; a busy one whose producer has written back
gives the producer's value; any other gives the producer's tag. -/
def Obligations.RenameSnoopsTheRob : Prop :=
  ∀ (s : State) (q : RegName),
    ((s.reg q).busy = false → s.rename q = ⟨true, (s.reg q).value, 0⟩) ∧
    ((s.reg q).busy = true → (s.slot (s.reg q).tag).ready = true →
      s.rename q = ⟨true, (s.slot (s.reg q).tag).value, 0⟩) ∧
    ((s.reg q).busy = true → (s.slot (s.reg q).tag).ready = false → s.rename q = ⟨false, 0, (s.reg q).tag⟩)

/-- A full pool stops issue and allocates nothing (R108), entries marked for removal counting as busy. -/
def Obligations.FullPoolStopsIssue : Prop :=
  ∀ (s : State) (i : Instr) (r : Record) (c : UnitClass), s.turn.phase = .issue r → classOf? i = some c →
    (∀ e ∈ s.rs.get c.pool, e.busy = true) →
    exec i s = .next { s with turn := { s.turn with phase := .finalize } }

/-- `EOP` stops issue and changes nothing else (R107, R256): no slot, no entry, and `pc` stays on it. -/
def Obligations.EopStopsIssue : Prop :=
  ∀ (s : State) (r : Record), s.turn.phase = .issue r →
    exec .eop s = .next { s with turn := { s.turn with phase := .finalize } }

/-! ## Address generation and dispatch (41_pipeline_dispatch.md) -/

/-- X1 (R122): an entry of `LOAD_B` whose base is ready, and whose address is not known yet, gets base plus immediate;
a store's goes into its ROB slot too. Any other entry is left alone. First for the turn of one instruction; then for the
whole phase, from every state whose tables agree: every entry of `LOAD_B` has its turn. -/
def Obligations.AddressIsBasePlusImmediate : Prop :=
  (∀ (s : State) (i : Instr) (k : Nat), s.turn.phase = .address k → isLoad i = true ∨ isStore i = true →
    ∀ e, e = s.entry ⟨.loadB, k⟩ →
    ((e.busy = true ∧ e.inExec = false ∧ e.op1.ready = true ∧ e.addrKnown = false →
      exec i s = .next { s with
        rs := s.rs.set .loadB ((s.rs.get .loadB).set k { e with addr := e.op1.value + immOf i, addrKnown := true })
        rob := if isStore i then
            { s.rob with
              slots := s.rob.slots.set e.tagD
                { s.slot e.tagD with addr := e.op1.value + immOf i, addrKnown := true } }
          else s.rob }) ∧
    (¬ (e.busy = true ∧ e.inExec = false ∧ e.op1.ready = true ∧ e.addrKnown = false) → exec i s = .next s))) ∧
  ∀ s : State, s.Runnable → s.PoolsOk → s.fault = .noFault →
    ∃ t, addressPhase s = .next t ∧
      (∀ ref, t.entry ref =
        if ref.pool = .loadB ∧ (s.entry ref).NeedsAddress then
          { s.entry ref with addr := (s.entry ref).op1.value + (s.entry ref).instr.imm, addrKnown := true }
        else s.entry ref) ∧
      (∀ k, ∀ e, e = s.entry ⟨.loadB, k⟩ → e.NeedsAddress → e.instr.opIsStore = true →
        t.slot e.tagD = { s.slot e.tagD with addr := e.op1.value + e.instr.imm, addrKnown := true }) ∧
      (∀ u, (∀ k, ∀ e, e = s.entry ⟨.loadB, k⟩ → e.NeedsAddress → e.instr.opIsStore = true → e.tagD ≠ u) →
        t.slot u = s.slot u) ∧
      t.rob.head = s.rob.head ∧ t.rob.tail = s.rob.tail ∧ t.rob.count = s.rob.count ∧
      s.SameExcept t [.rob, .rs, .turn]

/-- X2 for an instruction of a class other than `MEMORY` (R120, R131): eligible and with a free lane, it takes the
lowest one for `LAT[c]` cycles and is marked executing; otherwise nothing changes. -/
def Obligations.TimedDispatchTakesLowestLane : Prop :=
  ∀ (s : State) (i : Instr) (c : UnitClass) (ref : RsRef), s.turn.phase = .dispatch ref → classOf? i = some c →
    c ≠ .memory → ∀ e, e = s.entry ref →
    ((e.busy = true ∧ e.inExec = false ∧ e.op1.ready = true ∧ e.op2.ready = true →
      ((∀ l ∈ s.lanes.get c, l.busy = true) → exec i s = .next s) ∧
      ∀ j, j < (s.lanes.get c).length → (s.lane c j).busy = false → (∀ m < j, (s.lane c m).busy = true) →
        exec i s = .next { s.executing ref with
          lanes := s.lanes.set c ((s.lanes.get c).set j ⟨true, ref, s.cfg.lat.get c, 0, false, false⟩) }) ∧
    (¬ (e.busy = true ∧ e.inExec = false ∧ e.op1.ready = true ∧ e.op2.ready = true) → exec i s = .next s))

/-- X2 for a store (R132): eligible, it takes the lowest free bypass slot with its data, whatever `memBlock` says;
otherwise nothing changes. -/
def Obligations.StoreDispatchTakesBypassSlot : Prop :=
  ∀ (s : State) (i : Instr) (ref : RsRef), s.turn.phase = .dispatch ref → isStore i = true →
    ∀ e, e = s.entry ref →
    ((e.busy = true ∧ e.inExec = false ∧ e.op1.ready = true ∧ e.op2.ready = true →
      ∀ j, j < s.byp.length → (s.bypSlot j).busy = false → (∀ m < j, (s.bypSlot m).busy = true) →
        exec i s = .next { s.executing ref with byp := s.byp.set j ⟨true, ref, e.op2.value, false⟩ }) ∧
    (¬ (e.busy = true ∧ e.inExec = false ∧ e.op1.ready = true ∧ e.op2.ready = true) → exec i s = .next s))

/-- X2 for a load (R133, R134): not eligible, or in conflict, it waits; its store's data comes by the lowest free bypass
slot; a load that needs memory waits for `memBlock`, for the one timed dispatch of the cycle and for a lane, and else
takes the lowest free one; a load whose own tag is not live raises `DISAMBIG_SCAN`. -/
def Obligations.LoadDispatchByDisambiguation : Prop :=
  ∀ (s : State) (i : Instr) (ref : RsRef), s.turn.phase = .dispatch ref → isLoad i = true →
    ∀ e, e = s.entry ref →
    (¬ (e.busy = true ∧ e.inExec = false ∧ e.op1.ready = true ∧ e.op2.ready = true) → exec i s = .next s) ∧
    (e.busy = true ∧ e.inExec = false ∧ e.op1.ready = true ∧ e.op2.ready = true →
      (s.disambiguate e = .notLive →
        exec i s = .next { s with fault := .disambigScan, faultPc := e.instr.pc, faultAddr := 0 }) ∧
      (s.disambiguate e = .conflict → exec i s = .next s) ∧
      (∀ v, s.disambiguate e = .bypass v →
        ∀ j, j < s.byp.length → (s.bypSlot j).busy = false → (∀ m < j, (s.bypSlot m).busy = true) →
          exec i s = .next { s.executing ref with byp := s.byp.set j ⟨true, ref, v, false⟩ }) ∧
      (s.disambiguate e = .clear →
        (s.memBlock = true ∨ s.turn.memTimedIssued = true ∨ (∀ l ∈ s.lanes.memory, l.busy = true) →
          exec i s = .next s) ∧
        (s.memBlock = false → s.turn.memTimedIssued = false →
          ∀ j, j < s.lanes.memory.length → (s.lane .memory j).busy = false →
            (∀ m < j, (s.lane .memory m).busy = true) →
            exec i s = .next { s.executing ref with
              lanes := { s.lanes with memory := s.lanes.memory.set j ⟨true, ref, s.cfg.lat.memory, 0, false, false⟩ }
              turn := { s.turn with memTimedIssued := true } })))

/-- The disambiguation check (R136, R137): the nearest older slot that is not transparent decides. A load whose own tag
is not live has no outcome; one of age `n` meets the slots of age `n - 1` down to 0. -/
def Obligations.NearestOlderStoreDecides : Prop :=
  ∀ (s : State) (e : RsEntry), s.rob.head < s.cfg.robSize → s.rob.count ≤ s.cfg.robSize →
    (e.tagD ∉ s.liveTags → s.disambiguate e = .notLive) ∧
    ∀ n < s.rob.count, (s.rob.head + n) % s.cfg.robSize = e.tagD →
      ((∀ m < n, (s.slotAtAge m).Transparent e.addr) → s.disambiguate e = .clear) ∧
      ∀ j < n, (∀ m, j < m → m < n → (s.slotAtAge m).Transparent e.addr) →
        (s.slotAtAge j).instr.opIsStore = true →
        ((s.slotAtAge j).addrKnown = false → s.disambiguate e = .conflict) ∧
        ((s.slotAtAge j).addrKnown = true → (s.slotAtAge j).addr = e.addr →
          s.disambiguate e = if (s.slotAtAge j).ready then .bypass (s.slotAtAge j).value else .conflict)

/-- Dispatch writes no result (R135): through the whole of X2 no ROB value, readiness, address or branch outcome, no
operand, no register and no byte of memory changes. -/
def Obligations.DispatchWritesNoResult : Prop :=
  ∀ s t : State, dispatchPhase s = .next t →
    (∀ u, (t.slot u).value = (s.slot u).value ∧ (t.slot u).ready = (s.slot u).ready ∧
      (t.slot u).addr = (s.slot u).addr ∧ (t.slot u).addrKnown = (s.slot u).addrKnown ∧
      (t.slot u).misPred = (s.slot u).misPred ∧ (t.slot u).instr = (s.slot u).instr ∧
      (t.slot u).live = (s.slot u).live) ∧
    (∀ e, (t.entry e).op1 = (s.entry e).op1 ∧ (t.entry e).op2 = (s.entry e).op2 ∧
      (t.entry e).busy = (s.entry e).busy ∧ (t.entry e).tagD = (s.entry e).tagD) ∧
    t.rob.head = s.rob.head ∧ t.rob.tail = s.rob.tail ∧ t.rob.count = s.rob.count ∧
    s.SameExcept t [.rob, .rs, .lanes, .byp, .fault, .faultPc, .faultAddr, .turn]

/-! ## Countdown and compute (42_pipeline_execute_writeback.md, 44 to 47) -/

/-- A lane with more than one cycle to go counts one down, and a lane that is free or done is left alone (R140): every
instruction. Then the whole of X3, from every state whose slots agree with the entries: where no lane's turn raises a
fault, every lane is as its own turn leaves it, every bypass slot filled this cycle is done, and more than one load ending
raises `MEM_STRUCTURAL` (R145); otherwise the first lane in the order of R140 whose turn raises a fault gives it (R312). -/
def Obligations.CountdownContinues : Prop :=
  (∀ (s : State) (i : Instr) (c : UnitClass) (j : Nat), s.turn.phase = .complete c j →
    (∀ n, (s.lane c j).busy = true → (s.lane c j).done = false → (s.lane c j).ttl = n + 2 →
      exec i s = .next (s.laneAs c j { s.lane c j with ttl := n + 1 })) ∧
    ((s.lane c j).busy = false ∨ (s.lane c j).done = true → exec i s = .next s)) ∧
  ∀ s : State, s.Runnable → s.SlotsOk → s.fault = .noFault →
    ∃ t, countPhase s = .next t ∧
      ((∀ c j, (s.laneTurn c j).fault = .noFault) →
        (∀ c j, t.lane c j = (s.laneTurn c j).lane c j) ∧
        (∀ j, t.bypSlot j = { s.bypSlot j with done := (s.bypSlot j).busy || (s.bypSlot j).done }) ∧
        (s.loadsEnding ≤ 1 → s.SameExcept t [.lanes, .byp, .turn]) ∧
        (1 < s.loadsEnding → t.fault = .memStructural ∧ t.faultPc = 0 ∧ t.faultAddr = 0 ∧
          s.SameExcept t [.lanes, .byp, .turn, .fault, .faultPc, .faultAddr])) ∧
      ∀ c j, (s.laneTurn c j).fault ≠ .noFault →
        (∀ c' j', laneBefore c' j' c j → (s.laneTurn c' j').fault = .noFault) →
        t.fault = (s.laneTurn c j).fault ∧ t.faultPc = (s.laneTurn c j).faultPc ∧
          t.faultAddr = (s.laneTurn c j).faultAddr ∧
          s.SameExcept t [.lanes, .turn, .fault, .faultPc, .faultAddr]

/-- The integer results (R200 to R209), modulo `2^32`, the immediate word used as it is (R84): the lane is done with
the result, and nothing else changes; no flag exists and no operation faults. -/
def Obligations.IntegerResults : Prop :=
  ∀ (s : State) (c : UnitClass) (j : Nat) (rd rs rt : Reg) (imm a b : Word), s.Finishing c j →
    a = (s.served c j).op1.value → b = (s.served c j).op2.value →
    exec (.add rd rs rt) s = .next (s.laneDone c j (a + b) false) ∧
    exec (.addi rd rs imm) s = .next (s.laneDone c j (a + imm) false) ∧
    exec (.sub rd rs rt) s = .next (s.laneDone c j (a - b) false) ∧
    exec (.subi rd rs imm) s = .next (s.laneDone c j (a - imm) false) ∧
    exec (.xor rd rs rt) s = .next (s.laneDone c j (a ^^^ b) false) ∧
    exec (.xori rd rs imm) s = .next (s.laneDone c j (a ^^^ imm) false) ∧
    exec (.or rd rs rt) s = .next (s.laneDone c j (a ||| b) false) ∧
    exec (.ori rd rs imm) s = .next (s.laneDone c j (a ||| imm) false) ∧
    exec (.and rd rs rt) s = .next (s.laneDone c j (a &&& b) false) ∧
    exec (.andi rd rs imm) s = .next (s.laneDone c j (a &&& imm) false)

/-- `MULT` (R210): the low 32 bits of the product, so the signed and the unsigned reading agree with it modulo `2^32`. -/
def Obligations.MultiplyKeepsLowHalf : Prop :=
  ∀ (s : State) (c : UnitClass) (j : Nat) (rd rs rt : Reg) (a b : Word), s.Finishing c j →
    a = (s.served c j).op1.value → b = (s.served c j).op2.value →
    ∃ p : Word, exec (.mult rd rs rt) s = .next (s.laneDone c j p false) ∧
      p.toNat = a.toNat * b.toNat % 2 ^ 32 ∧ (2 ^ 32 : Int) ∣ s32 p - s32 a * s32 b

/-- `DIV` (R211, R310): the quotient truncated toward zero, or the unsigned floor, as `DIV_SIGNED` says; `DIV_FAULT`,
with no result, for a zero divisor and, signed, for `-2^31 / -1`. -/
def Obligations.DivideResultOrFault : Prop :=
  ∀ (s : State) (c : UnitClass) (j : Nat) (rd rs rt : Reg) (a b : Word), s.Finishing c j →
    a = (s.served c j).op1.value → b = (s.served c j).op2.value →
    (b = 0 ∨ (s.cfg.divSigned = true ∧ s32 a = -2 ^ 31 ∧ s32 b = -1) →
      exec (.div rd rs rt) s = .next (s.laneFaults c j .divFault (s.served c j).instr.pc 0)) ∧
    (b ≠ 0 → s.cfg.divSigned = false →
      ∃ q : Word, exec (.div rd rs rt) s = .next (s.laneDone c j q false) ∧ q.toNat = a.toNat / b.toNat) ∧
    (b ≠ 0 → s.cfg.divSigned = true → ¬ (s32 a = -2 ^ 31 ∧ s32 b = -1) →
      ∃ q : Word, exec (.div rd rs rt) s = .next (s.laneDone c j q false) ∧ s32 q = (s32 a).tdiv (s32 b))

/-- Branch resolution (R229 to R237): the target is the record's address plus 4 plus the immediate, whatever the
condition; the condition is on the tested word, signed in the ordered comparisons; `JUMP` is always taken. -/
def Obligations.BranchesResolve : Prop :=
  ∀ (s : State) (c : UnitClass) (j : Nat) (rs : Reg) (imm a target : Word), s.Finishing c j →
    a = (s.served c j).op1.value → target = (s.served c j).instr.pc + 4 + imm →
    exec (.beqz rs imm) s = .next (s.laneDone c j target (decide (a.toNat = 0))) ∧
    exec (.bnez rs imm) s = .next (s.laneDone c j target (decide (a.toNat ≠ 0))) ∧
    exec (.bltz rs imm) s = .next (s.laneDone c j target a.msb) ∧
    exec (.bgtz rs imm) s = .next (s.laneDone c j target (!a.msb && decide (a.toNat ≠ 0))) ∧
    exec (.blez rs imm) s = .next (s.laneDone c j target (a.msb || decide (a.toNat = 0))) ∧
    exec (.bgez rs imm) s = .next (s.laneDone c j target (!a.msb)) ∧
    exec (.jump imm) s = .next (s.laneDone c j target true)

/-- A load reads memory when its countdown ends (R143, R249): the little-endian word of the four bytes, unchanged,
whichever bank it is for; one more completion on the memory port. -/
def Obligations.LoadReadsWord : Prop :=
  ∀ (s : State) (i : Instr) (c : UnitClass) (j : Nat) (a : Word), s.Finishing c j → isLoad i = true →
    a = (s.served c j).addr → a.toNat % 4 = 0 → a.toNat + 4 ≤ s.cfg.memSize →
    ∃ v : Word, (∀ k < 4, byteOf v k = s.mem.read (a.toNat + k)) ∧
      exec i s = .next { s.laneDone c j v false with turn := { s.turn with memDone := s.turn.memDone + 1 } }

/-- Alignment and range (R63, R64), for a load whose countdown ends and for a store in its last commit cycle:
misalignment is checked first, the range in unbounded integers. The store stays at the head, its slot's record, data
and address with it, `memBlock` still set (R308). -/
def Obligations.DataAccessFaults : Prop :=
  ∀ (s : State) (i : Instr) (a : Word) (f : FaultCode),
    ((a.toNat % 4 ≠ 0 ∧ f = .memMisaligned) ∨
      (a.toNat % 4 = 0 ∧ s.cfg.memSize < a.toNat + 4 ∧ f = .memOutOfRange)) →
    (∀ c j, s.Finishing c j → isLoad i = true → a = (s.served c j).addr →
      exec i s = .next (s.laneFaults c j f (s.served c j).instr.pc a)) ∧
    (s.Committing → isStore i = true → s.storeCyclesLeft = 1 → a = s.headSlot.addr →
      ∃ t, exec i s = .next t ∧ t.fault = f ∧ t.faultPc = s.headSlot.instr.pc ∧ t.faultAddr = a ∧
        t.rob.head = s.rob.head ∧ t.rob.count = s.rob.count ∧ t.rob.tail = s.rob.tail ∧
        t.headSlot = { s.stampedHead with stctr := t.headSlot.stctr } ∧
        (∀ u, u ≠ s.rob.head → t.slot u = s.slot u) ∧
        (s.headSlot.stctr = none ∨ s.memBlock = true → t.memBlock = true) ∧
        s.SameExcept t [.rob, .memBlock, .fault, .faultPc, .faultAddr])

/-- The float results on finite operands (R265, R270 to R273): the exact result rounded once, to nearest with ties to
even, subnormals kept, overflow to infinity; the sign of a zero follows IEEE 754. No operation faults. -/
def Obligations.FloatResultsRoundOnce : Prop :=
  ∀ (s : State) (c : UnitClass) (j : Nat) (fd fs ft : Reg) (a b : Word) (x y : ℚ), s.Finishing c j →
    a = (s.served c j).op1.value → b = (s.served c j).op2.value →
    finiteValue a = some x → finiteValue b = some y →
    (∃ w, exec (.adds fd fs ft) s = .next (s.laneDone c j w false) ∧ Rounded (x + y) w ∧
      (x + y = 0 → w = signedZero (signOf a && signOf b))) ∧
    (∃ w, exec (.subs fd fs ft) s = .next (s.laneDone c j w false) ∧ Rounded (x - y) w ∧
      (x - y = 0 → w = signedZero (signOf a && !signOf b))) ∧
    (∃ w, exec (.mults fd fs ft) s = .next (s.laneDone c j w false) ∧ Rounded (x * y) w ∧
      (x * y = 0 → w = signedZero (signOf a != signOf b))) ∧
    (y ≠ 0 → ∃ w, exec (.divs fd fs ft) s = .next (s.laneDone c j w false) ∧ Rounded (x / y) w ∧
      (x / y = 0 → w = signedZero (signOf a != signOf b)))

/-- NaN results (R266): where IEEE 754 gives a NaN the result word is `FP_NAN(op, a, b)` of the configuration, and the
reference configuration's is `0x7FC00000` whatever the operands. Nothing else is said of it. -/
def Obligations.FloatNanIsTheParameter : Prop :=
  (∀ (s : State) (c : UnitClass) (j : Nat) (fd fs ft : Reg) (a b : Word), s.Finishing c j →
    a = (s.served c j).op1.value → b = (s.served c j).op2.value →
    (givesNan .adds a b = true →
      exec (.adds fd fs ft) s = .next (s.laneDone c j (s.cfg.fpNan.apply .adds a b) false)) ∧
    (givesNan .subs a b = true →
      exec (.subs fd fs ft) s = .next (s.laneDone c j (s.cfg.fpNan.apply .subs a b) false)) ∧
    (givesNan .mults a b = true →
      exec (.mults fd fs ft) s = .next (s.laneDone c j (s.cfg.fpNan.apply .mults a b) false)) ∧
    (givesNan .divs a b = true →
      exec (.divs fd fs ft) s = .next (s.laneDone c j (s.cfg.fpNan.apply .divs a b) false))) ∧
  ∀ op a b, Config.ref.fpNan.apply op a b = 0x7FC00000

/-- The float results with an infinity, or over a zero, that are no NaN (R265, R273): a sum with an infinity is that
infinity; a product or quotient with one has the exclusive-or sign; a finite value over an infinity is a zero and a
nonzero finite value over a zero an infinity. -/
def Obligations.FloatInfinities : Prop :=
  ∀ (s : State) (c : UnitClass) (j : Nat) (fd fs ft : Reg) (a b : Word), s.Finishing c j →
    a = (s.served c j).op1.value → b = (s.served c j).op2.value →
    (givesNan .adds a b = false →
      (isInf a = true → exec (.adds fd fs ft) s = .next (s.laneDone c j a false)) ∧
      (isInf b = true → exec (.adds fd fs ft) s = .next (s.laneDone c j b false))) ∧
    (givesNan .subs a b = false →
      (isInf a = true → exec (.subs fd fs ft) s = .next (s.laneDone c j a false)) ∧
      (isInf b = true → exec (.subs fd fs ft) s = .next (s.laneDone c j (signedInf (!signOf b)) false))) ∧
    (givesNan .mults a b = false → isInf a = true ∨ isInf b = true →
      exec (.mults fd fs ft) s = .next (s.laneDone c j (signedInf (signOf a != signOf b)) false)) ∧
    (givesNan .divs a b = false →
      (isInf a = true ∨ isZero b = true →
        exec (.divs fd fs ft) s = .next (s.laneDone c j (signedInf (signOf a != signOf b)) false)) ∧
      (isInf b = true →
        exec (.divs fd fs ft) s = .next (s.laneDone c j (signedZero (signOf a != signOf b)) false)))

/-- The end of X3 (R144, R145): every bypass slot filled this cycle is done, and more than one memory completion raises
`MEM_STRUCTURAL`, which belongs to no record. -/
def Obligations.BypassSlotsFinish : Prop :=
  ∀ s : State, ∃ t, finishCompletions s = .next t ∧
    (∀ j, t.bypSlot j = { s.bypSlot j with done := (s.bypSlot j).busy || (s.bypSlot j).done }) ∧
    (s.turn.memDone ≤ 1 → s.SameExcept t [.byp]) ∧
    (1 < s.turn.memDone → t.fault = .memStructural ∧ t.faultPc = 0 ∧ t.faultAddr = 0 ∧
      s.SameExcept t [.byp, .fault, .faultPc, .faultAddr])

/-! ## Writeback (42_pipeline_execute_writeback.md) -/

/-- Writeback of the done slot `l` (R150 to R153): every busy entry of every pool hears `(tag, value)` on the operands
that wait for it; the ROB slot of the tag is ready with the value and, for a branch, its outcome; the entry is marked
for removal; the slot is free. Every instruction but `EOP`. -/
def Obligations.WritebackBroadcasts : Prop :=
  ∀ (s : State) (i : Instr) (l : SlotRef) (ref : RsRef) (tag : Nat) (v : Word), s.turn.phase = .writeback l → i ≠ .eop →
    ref = (s.slotView l).rs → tag = (s.entry ref).tagD → v = (s.slotView l).result →
    ref.idx < (s.rs.get ref.pool).length → tag < s.rob.slots.length →
    ∃ t, exec i s = .next t ∧
      (∀ e, t.entry e = { s.entry e with
        op1 := if (s.entry e).busy ∧ (s.entry e).op1.ready = false ∧ (s.entry e).op1.tag = tag then ⟨true, v, 0⟩
          else (s.entry e).op1
        op2 := if (s.entry e).busy ∧ (s.entry e).op2.ready = false ∧ (s.entry e).op2.tag = tag then ⟨true, v, 0⟩
          else (s.entry e).op2
        remove := if e = ref then true else (s.entry e).remove }) ∧
      (∀ u, t.slot u = if u = tag then
          { s.slot u with
            ready := true, value := v, misPred := if isBranch i then (s.slotView l).misPred else (s.slot u).misPred
            stage := .writeResult, ts := { (s.slot u).ts with writeResult := s.cycle + 1 } }
        else s.slot u) ∧
      (∀ c j, t.lane c j = if l = .timed c j then { s.lane c j with busy := false, done := false, ttl := 0 }
        else s.lane c j) ∧
      (∀ j, t.bypSlot j = if l = .bypass j then { s.bypSlot j with busy := false, done := false } else s.bypSlot j) ∧
      t.rob.head = s.rob.head ∧ t.rob.tail = s.rob.tail ∧ t.rob.count = s.rob.count ∧
      s.SameExcept t [.rob, .rs, .lanes, .byp]

/-- The order in which writeback visits two done slots does not change the result (R154), where they serve different
entries with different tags, as R42 says done slots do. -/
def Obligations.WritebackOrderIsImmaterial : Prop :=
  ∀ (s : State) (i i' : Instr) (l l' : SlotRef), i ≠ .eop → i' ≠ .eop → l ≠ l' →
    (s.slotView l).rs ≠ (s.slotView l').rs →
    (s.entry (s.slotView l).rs).tagD ≠ (s.entry (s.slotView l').rs).tagD →
    ∃ t u v w, exec i (s.atPhase (.writeback l)) = .next t ∧ exec i' (t.atPhase (.writeback l')) = .next u ∧
      exec i' (s.atPhase (.writeback l')) = .next v ∧ exec i (v.atPhase (.writeback l)) = .next w ∧
      u.atPhase .commit = w.atPhase .commit

/-! ## Commit and squash (43_pipeline_commit_squash.md) -/

/-- The in-order stall (R160): an empty ROB, or a head that is not ready, commits nothing and changes nothing. Every
instruction. -/
def Obligations.HeadNotReadyStalls : Prop :=
  ∀ (s : State) (i : Instr), s.turn.phase = .commit → s.rob.count = 0 ∨ s.headSlot.ready = false →
    exec i s = .next s

/-- Register commit (R162), for every instruction with a destination: the register takes the head's value whether or not
its tag is the head's; its busy bit is cleared only where it is. The head is stamped (R160), popped and counted, every
other field of its slot kept. No register discards a write (R23). -/
def Obligations.CommitWritesDestination : Prop :=
  ∀ (s : State) (i : Instr) (r : RegName), s.Committing → dest? i = some r →
    ∃ t, exec i s = .next t ∧
      t.reg r = { value := s.headSlot.value
                  busy := (s.reg r).busy && decide ((s.reg r).tag ≠ s.rob.head)
                  tag := (s.reg r).tag } ∧
      (∀ q, q ≠ r → t.reg q = s.reg q) ∧
      t.rob.head = (s.rob.head + 1) % s.cfg.robSize ∧ t.rob.count = s.rob.count - 1 ∧ t.rob.tail = s.rob.tail ∧
      t.slot s.rob.head = { s.stampedHead with live := false } ∧ (∀ u, u ≠ s.rob.head → t.slot u = s.slot u) ∧
      t.committed = s.committed + 1 ∧
      s.SameExcept t [.gpr, .fpr, .rob, .committed]

/-- A branch that was not taken retires (R160, R163): popped and counted, its slot stamped, with no other effect. -/
def Obligations.UntakenBranchRetires : Prop :=
  ∀ (s : State) (i : Instr), s.Committing → isBranch i = true → s.headSlot.misPred = false →
    ∃ t, exec i s = .next t ∧
      t.rob.head = (s.rob.head + 1) % s.cfg.robSize ∧ t.rob.count = s.rob.count - 1 ∧ t.rob.tail = s.rob.tail ∧
      t.slot s.rob.head = { s.stampedHead with live := false } ∧ (∀ u, u ≠ s.rob.head → t.slot u = s.slot u) ∧
      t.committed = s.committed + 1 ∧
      s.SameExcept t [.rob, .committed]

/-- A taken branch at the head squashes (R163, R170): every lane, bypass slot, entry and ROB slot is cleared, every busy
bit is cleared, `pc` is the target in the branch's slot; the branch is counted. That no register value and no byte of
memory changes is the spec's inference (R171). That a cleared lane or bypass slot keeps its `rs`, an entry all but `busy`
and `remove`, a ROB slot all but `live` and a register its tag is the model's (log entry 12, DEDUCED from R11: "Unnamed
fields keep their value"). -/
def Obligations.TakenBranchSquashes : Prop :=
  ∀ (s : State) (i : Instr), s.Committing → isBranch i = true → s.headSlot.misPred = true →
    ∃ t, exec i s = .next t ∧ t.pc = s.headSlot.value ∧ t.committed = s.committed + 1 ∧
      (∀ c j, t.lane c j = { s.lane c j with busy := false, ttl := 0, done := false, result := 0, misPred := false }) ∧
      (∀ j, t.bypSlot j = { s.bypSlot j with busy := false, done := false, result := 0 }) ∧
      (∀ e, t.entry e = { s.entry e with busy := false, remove := false }) ∧
      (∀ u, t.slot u = { (if u = s.rob.head then s.stampedHead else s.slot u) with live := false }) ∧
      t.rob.head = s.rob.tail ∧ t.rob.tail = s.rob.tail ∧ t.rob.count = 0 ∧
      (∀ q, t.reg q = { s.reg q with busy := false }) ∧
      s.SameExcept t [.pc, .committed, .lanes, .byp, .rs, .rob, .gpr, .fpr]

/-- A store with more than one commit cycle to go holds the head and counts one down; its first cycle sets `memBlock`
(R164). The head's slot is as it was but for the countdown and the stamp of R160: its record, its value, its address and
`addrKnown`, which the scan of R136 reads, its outcome and its being live and ready are kept. -/
def Obligations.StoreHoldsTheHead : Prop :=
  ∀ (s : State) (i : Instr) (n : Nat), s.Committing → isStore i = true → s.storeCyclesLeft = n + 2 →
    ∃ t, exec i s = .next t ∧ t.headSlot = { s.stampedHead with stctr := some (n + 1) } ∧
      t.memBlock = (s.memBlock || s.headSlot.stctr.isNone) ∧
      t.rob.head = s.rob.head ∧ t.rob.count = s.rob.count ∧ t.rob.tail = s.rob.tail ∧
      (∀ u, u ≠ s.rob.head → t.slot u = s.slot u) ∧
      s.SameExcept t [.rob, .memBlock]

/-- The last commit cycle of a store (R62, R164): the four bytes at its address, little-endian, and no other byte of
memory; `memBlock` is cleared; the store is popped and counted. -/
def Obligations.StoreWritesItsWord : Prop :=
  ∀ (s : State) (i : Instr) (a : Nat), s.Committing → isStore i = true → s.storeCyclesLeft = 1 → s.mem.wf = true →
    a = s.headSlot.addr.toNat → a % 4 = 0 → a + 4 ≤ s.cfg.memSize →
    ∃ t, exec i s = .next t ∧
      (∀ k < 4, t.mem.read (a + k) = byteOf s.headSlot.value k) ∧
      (∀ b, b < a ∨ a + 4 ≤ b → t.mem.read b = s.mem.read b) ∧
      t.mem.wf = true ∧ t.memBlock = false ∧
      t.rob.head = (s.rob.head + 1) % s.cfg.robSize ∧ t.rob.count = s.rob.count - 1 ∧ t.rob.tail = s.rob.tail ∧
      t.slot s.rob.head = { s.stampedHead with live := false, stctr := (t.slot s.rob.head).stctr } ∧
      (∀ u, u ≠ s.rob.head → t.slot u = s.slot u) ∧
      t.committed = s.committed + 1 ∧
      s.SameExcept t [.mem, .memBlock, .rob, .committed]

/-- Finalize (R181): exactly the entries marked for removal are freed, and nothing else of the block changes; the turn
goes back to rest. -/
def Obligations.FinalizeFreesMarkedEntries : Prop :=
  ∀ s : State, ∃ t, finalizePhase s = .next t ∧
    (∀ e, t.entry e = { s.entry e with busy := (s.entry e).busy && !(s.entry e).remove, remove := false }) ∧
    t.turn = Turn.start ∧ s.SameExcept t [.rs, .turn]

/-! ## The cycle (43_pipeline_commit_squash.md R180) -/

/-- In every phase, the turn of an instruction in flight is the action of the instruction its record names: the head in
C, the entry a done slot serves in W, a busy `LOAD_B` entry in X1, an entry of its class in X2, the entry of a counting
lane in X3. And the step of an unfaulted block is the phases C, W, X1, X2, X3, I, F and the cycle count in this order, each
on the state the one before left, ended by the first fault (R180, R301). What each whole phase leaves is said of W in
WritebackServesEveryDoneSlot, of X1 in AddressIsBasePlusImmediate, of X2 in DispatchServesOldestFirst, of X3 in
CountdownContinues and of F in FinalizeFreesMarkedEntries. -/
def Obligations.PhasesRunTheRecords : Prop :=
  (∀ s : State, s.Runnable → s.fault = .noFault →
    step s = forEach (fun phase u => phase u)
      [commitPhase, writebackPhase, addressPhase, dispatchPhase, countPhase, issuePhase, finalizePhase, tick]
      { s with turn := Turn.start }) ∧
  ∀ (s : State) (i : Instr),
    (s.rob.count ≠ 0 → s.headSlot.instr.instr? = some i → commitPhase s = exec i (s.atPhase .commit)) ∧
    (∀ l, (s.slotView l).done = true → (s.entry (s.slotView l).rs).instr.instr? = some i →
      writebackSlot l s = exec i (s.atPhase (.writeback l))) ∧
    (∀ k, (s.entry ⟨.loadB, k⟩).busy = true → (s.entry ⟨.loadB, k⟩).instr.instr? = some i →
      addressEntry k s = exec i (s.atPhase (.address k))) ∧
    (∀ ref, (s.entry ref).instr.instr? = some i → dispatchEntry ref s = exec i (s.atPhase (.dispatch ref))) ∧
    ∀ c j, (s.lane c j).busy = true → (s.lane c j).done = false → (s.entry (s.lane c j).rs).instr.instr? = some i →
      countLane c j s = exec i (s.atPhase (.complete c j))

/-- A step runs the decoded instruction: where C, W and X leave `u` without a fault and with room, and the word fetched
at `u.pc` decodes to `i`, the step is `exec i` at `u`, then the rest of the batch, F and the cycle count. -/
def Obligations.StepRunsDecodedInstruction : Prop :=
  ∀ (s u : State) (w : BitVec 96) (i : Instr) (n : Nat), s.Runnable → s.fault = .noFault →
    beforeIssue { s with turn := Turn.start } = .next u → u.fault = .noFault → u.cfg.issueWidth = n + 1 →
    u.rob.count ≠ u.cfg.robSize → u.fetch = some w → decode w u.pc = .ok i →
    step s = andThen (andThen (andThen
      (exec i { u with turn := { u.turn with phase := .issue (unpack w), issued := 0 } })
      (fun v => if v.turn.phase = .finalize then .next v else issueLoop n v)) finalizePhase) tick

/-- With nothing in flight, a step is the issue of the instruction at `pc`, then the rest of the batch, F and the cycle
count (R331: the first step issues the record at `BASE`). -/
def Obligations.IdleStepIssuesAtPc : Prop :=
  ∀ (s : State) (w : BitVec 96) (i : Instr), s.Runnable → s.fault = .noFault → s.Idle →
    s.fetch = some w → decode w s.pc = .ok i →
    step s = andThen (andThen (andThen (exec i (s.atPhase (.issue (unpack w))))
      (fun v => if v.turn.phase = .finalize then .next v else issueLoop (s.cfg.issueWidth - 1) v)) finalizePhase) tick

/-- What stops the model instead of stepping: a configuration that breaks R8 and an empty program are refused (93 U17,
U18); raw data that is no state of the block is a fault of the model's own (log entry 4). Nothing else stops it. -/
def Obligations.OnlyTheseStopTheModel : Prop :=
  ∀ s : State,
    (step s = .refused .badConfiguration ↔ s.cfg.wf = false) ∧
    (step s = .refused .emptyProgram ↔ s.cfg.wf = true ∧ s.prog = []) ∧
    (step s = .fault .malformedState ↔ s.cfg.wf = true ∧ s.prog ≠ [] ∧ s.shaped = false) ∧
    ((∃ t, step s = .next t) ↔ s.Runnable)

/-- A faulted block takes no step (R47, R301): nothing changes. -/
def Obligations.FaultedBlockIsFrozen : Prop :=
  ∀ s : State, s.Runnable → s.fault ≠ .noFault → step s = .next s

/-- The fault registers and the cycle counter (R47, R180, R301, R319): a step that raises no fault adds one to `CYCLE`
and leaves the info registers alone; one that raises a fault does not count. -/
def Obligations.CycleCountsUnfaultedSteps : Prop :=
  ∀ s t : State, s.fault = .noFault → step s = .next t →
    (t.fault = .noFault → t.cycle = s.cycle + 1 ∧ t.faultPc = s.faultPc ∧ t.faultAddr = s.faultAddr) ∧
    (t.fault ≠ .noFault → t.cycle = s.cycle)

/-- The halted block (R184): no fault, an empty ROB and a well-formed `EOP` at `pc`. Then a step changes only `CYCLE`:
the spec's inference (R184, from R103, R107, R160 and R180). The in-flight invariant gives the empty pools and free lanes
an empty ROB implies. -/
def Obligations.HaltedStepCountsOnly : Prop :=
  ∀ s : State, s.Runnable → s.Halted → s.InFlightOk → s.turn = Turn.start →
    step s = .next { s with cycle := s.cycle + 1 }

/-- Launch (R55, R330): the values the spec gives every piece of state, for every configuration, program, register
values and memory image the host supplies. -/
def Obligations.LaunchValues : Prop :=
  ∀ (cfg : Config) (prog : List (BitVec 96)) (g f : Reg → Word) (m : Memory) (s : State),
    s = State.launch cfg prog g f m →
    (∀ i, s.reg (.gpr i) = ⟨g i, false, 0⟩ ∧ s.reg (.fpr i) = ⟨f i, false, 0⟩) ∧
    s.pc = cfg.base ∧ s.rob.head = 0 ∧ s.rob.tail = 0 ∧ s.rob.count = 0 ∧ s.rob.slots.length = cfg.robSize ∧
    (∀ x ∈ s.rob.slots, x.live = false ∧ x.ready = false ∧ x.value = 0 ∧ x.addr = 0 ∧ x.addrKnown = false ∧
      x.misPred = false ∧ x.stctr = none ∧ x.stage = .issue ∧ x.ts = ⟨0, 0, 0, 0⟩) ∧
    (∀ p, (s.rs.get p).length = cfg.rsSize.get p ∧ ∀ e ∈ s.rs.get p, e.busy = false ∧ e.instr = Record.zero ∧
      e.op1 = ⟨false, 0, 0⟩ ∧ e.op2 = ⟨false, 0, 0⟩ ∧ e.tagD = 0 ∧ e.addr = 0 ∧ e.addrKnown = false ∧
      e.inExec = false ∧ e.id = 0 ∧ e.remove = false) ∧
    (∀ c, (s.lanes.get c).length = cfg.lanes.get c ∧ ∀ l ∈ s.lanes.get c, l.busy = false ∧ l.ttl = 0 ∧
      l.done = false ∧ l.result = 0 ∧ l.misPred = false) ∧
    s.byp.length = cfg.rsSize.loadB ∧ (∀ b ∈ s.byp, b.busy = false ∧ b.done = false ∧ b.result = 0) ∧
    s.memBlock = false ∧ s.fault = .noFault ∧ s.faultPc = 0 ∧ s.faultAddr = 0 ∧ s.cycle = 0 ∧ s.committed = 0 ∧
    s.nextId = 0 ∧ s.mem = m

/-! ## Invariants and whole-machine rules -/

/-- The launched block meets every invariant below, whatever well-formed configuration, program, register values and
memory image of `MEM_SIZE` bytes it is launched with (R55, R330: the host supplies them). -/
def Obligations.LaunchMeetsInvariants : Prop :=
  ∀ (cfg : Config) (prog : List (BitVec 96)) (g f : Reg → Word) (m : Memory) (s : State), cfg.wf = true → prog ≠ [] →
    m.wf = true → (∀ c ∈ m, c.1 < cfg.memSize) → s = State.launch cfg prog g f m →
    s.Runnable ∧ s.RegsOk ∧ s.InFlightOk ∧ s.WaitsOk ∧ s.LoadsStaggered ∧ s.Idle

/-- The configuration and the program never change (R8, R20, R76: stores never affect instruction fetch). -/
def Obligations.ConfigurationNeverChanges : Prop :=
  ∀ s t : State, step s = .next t → t.cfg = s.cfg ∧ t.prog = s.prog

/-- A block that can step always steps, to a state that can step: no instruction, operand or data stops the model, every
array keeps its length and every index its range, and memory keeps its canonical form within `MEM_SIZE`. -/
def Obligations.RunnableBlockNeverStops : Prop :=
  ∀ s : State, s.Runnable → ∃ t, step s = .next t ∧ t.Runnable

/-- The ring and the register tags (R25, R30) are kept by every step, faulting ones included: the live slots are those
from head to tail; a busy register's tag is the youngest live instruction that writes it. -/
def Obligations.RegisterTagsStayAuthoritative : Prop :=
  ∀ s t : State, s.Runnable → s.RegsOk → step s = .next t → t.RegsOk

/-- The in-flight invariant (R30, R36, R38, R41, R42) is kept by every step that raises no fault: every busy entry has its
live slot and its class's pool, every busy lane or bypass slot its entry, each its own. Within the step, C keeps the whole
of it and W, X1, X2 and X3 keep the tables, which the statements about these phases assume. -/
def Obligations.InFlightStructuresAgree : Prop :=
  (∀ s t : State, s.Runnable → s.InFlightOk → s.fault = .noFault → step s = .next t → t.fault = .noFault →
    t.InFlightOk) ∧
  (∀ s t : State, s.Runnable → s.InFlightOk → commitPhase { s with turn := Turn.start } = .next t →
    t.Runnable ∧ t.InFlightOk) ∧
  ∀ s t : State, s.Runnable → s.TablesOk →
    ∀ phase ∈ [writebackPhase, addressPhase, dispatchPhase, countPhase], phase s = .next t → t.Runnable ∧ t.TablesOk

/-- No operand waits on a broadcast that has already happened (R101, R155): every pending operand's tag is live, older
than its instruction and not yet ready. -/
def Obligations.PendingOperandsWillHear : Prop :=
  ∀ s t : State, s.Runnable → s.RegsOk → s.InFlightOk → s.WaitsOk → s.fault = .noFault → step s = .next t →
    t.fault = .noFault → t.WaitsOk

/-- At most one load completes in a cycle (R134, R305): with the timed loads staggered, which every unfaulted step
keeps, no step raises `MEM_STRUCTURAL`. -/
def Obligations.MemoryPortNeverContended : Prop :=
  ∀ s t : State, s.Runnable → s.InFlightOk → s.LoadsStaggered → s.fault = .noFault → step s = .next t →
    t.fault ≠ .memStructural ∧ (t.fault = .noFault → t.LoadsStaggered)

/-- `DISAMBIG_SCAN` is unreachable (R137, R307): where every busy entry's tag is live, no step raises it. -/
def Obligations.ScanAlwaysFindsTheLoad : Prop :=
  ∀ s t : State, s.Runnable → s.InFlightOk → s.fault = .noFault → step s = .next t → t.fault ≠ .disambigScan

/-- `ROB_UNDERFLOW` (R33, R306): a pop of an empty ROB raises it, for no record; and no step does, from any state: the
spec's inference (R33, R306, from R160: commit pops only a live head). -/
def Obligations.RobNeverUnderflows : Prop :=
  (∀ s : State, s.rob.count = 0 →
    s.popAndCount = { s with fault := .robUnderflow, faultPc := 0, faultAddr := 0 }) ∧
  ∀ s t : State, s.fault = .noFault → step s = .next t → t.fault ≠ .robUnderflow

/-- Commit alone writes (R161, R165): after C, no later phase of the step changes a register's value, memory, the ROB
head or `COMMITTED`; and C changes only what the head, if ready, writes. -/
def Obligations.CommitAloneWritesArchitecture : Prop :=
  ∀ s u t : State, s.Runnable → s.fault = .noFault → commitPhase { s with turn := Turn.start } = .next u →
    step s = .next t →
    (∀ q, (t.reg q).value = (u.reg q).value) ∧ t.mem = u.mem ∧ t.rob.head = u.rob.head ∧ t.committed = u.committed ∧
    (∀ q, (u.reg q).value =
      if s.headReady = true ∧ destOfRecord s.headSlot.instr = some q then s.headSlot.value else (s.reg q).value) ∧
    (u.mem = s.mem ∨
      (s.headReady = true ∧ s.headSlot.instr.opIsStore = true ∧
        u.mem = s.mem.writeWord s.headSlot.addr.toNat s.headSlot.value)) ∧
    (s.headReady = false → u.rob = s.rob ∧ u.committed = s.committed) ∧
    (u.committed = s.committed ∨ u.committed = s.committed + 1)

/-- Fetch is sequential (R26, R112, R114): after C, a step issues `k` whole instructions, at most `ISSUE_WIDTH`, and `pc`,
the tail, the count and `NEXT_ID` move by `k` together; only C redirects `pc`, and only by the squash of a ready head that
is a branch with `misPred` set, which empties the ROB (R163, R170, R172). -/
def Obligations.IssueMovesTogether : Prop :=
  ∀ s u t : State, s.Runnable → s.fault = .noFault → commitPhase { s with turn := Turn.start } = .next u →
    step s = .next t →
    ∃ k ≤ s.cfg.issueWidth, t.pc = u.pc + 4 * BitVec.ofNat 32 k ∧ t.nextId = u.nextId + k ∧
      t.rob.count = u.rob.count + k ∧ t.rob.tail = (u.rob.tail + k) % s.cfg.robSize ∧
      (u.pc ≠ s.pc → s.headReady = true ∧ s.headSlot.instr.opIsBranch = true ∧ s.headSlot.misPred = true ∧
        u.pc = s.headSlot.value ∧ u.rob.count = 0)

/-- Memory access (R62, R66): an access that is made is aligned and in range; a write is read back, changes its four
bytes, little-endian, and no other byte, and keeps the canonical form; a read changes nothing, being no step. -/
def Obligations.MemoryKeepsWords : Prop :=
  ∀ (s : State) (a v : Word), s.mem.wf = true → a.toNat % 4 = 0 → a.toNat + 4 ≤ s.cfg.memSize →
    s.memRead a = .ok (s.mem.read (a.toNat + 3) ++ s.mem.read (a.toNat + 2) ++ s.mem.read (a.toNat + 1) ++
      s.mem.read a.toNat) ∧
    ∃ t, s.memWrite a v = .ok t ∧ t.memRead a = .ok v ∧ t.mem.wf = true ∧
      (∀ k < 4, t.mem.read (a.toNat + k) = byteOf v k) ∧
      (∀ b, b < a.toNat ∨ a.toNat + 4 ≤ b → t.mem.read b = s.mem.read b) ∧ s.SameExcept t [.mem]

/-- The consistency guarantee (R71): in a run that has not faulted, the committed register values and memory are those
of executing the committed instructions one at a time in program order from the launch state. -/
def Obligations.CommittedStateIsSequential : Prop :=
  ∀ (cfg : Config) (prog : List (BitVec 96)) (g f : Reg → Word) (m : Memory) (k : Nat) (s t : State),
    s = State.launch cfg prog g f m → s.Runnable → k < 2 ^ 64 → Sys2Proof.core.run k s = .next t →
    t.fault = .noFault →
    ∃ a, archRun cfg prog t.committed.toNat (s.arch s.pc) = some a ∧
      (∀ q, (t.reg q).value = a.reg q) ∧ t.mem = a.mem

/-- A free bypass slot always exists (R43 and R132: "always exists"; the spec's inference from R37 and R43), so no store
and no forwarded load ever waits for one (log entry 18). With the in-flight invariant before a step, the lane and bypass
invariants hold when X2 begins; every turn of X2 keeps them; and where they hold, an eligible entry of `LOAD_B` finds a
lowest free bypass slot, and a store takes it. -/
def Obligations.BypassSlotAlwaysFree : Prop :=
  (∀ s u : State, s.Runnable → s.InFlightOk →
    andThen (andThen (commitPhase { s with turn := Turn.start }) writebackPhase) addressPhase = .next u →
    u.Runnable ∧ u.SlotsOk) ∧
  (∀ (s t : State) (c : UnitClass) (ref : RsRef), s.Runnable → s.SlotsOk → ref ∈ s.entriesOldestFirst c →
    dispatchEntry ref s = .next t → t.Runnable ∧ t.SlotsOk) ∧
  ∀ (s : State) (k : Nat), s.Runnable → s.SlotsOk → (s.entry ⟨.loadB, k⟩).eligible = true →
    ∃ j < s.byp.length, (s.bypSlot j).busy = false ∧ (∀ m < j, (s.bypSlot m).busy = true) ∧
      ∀ i, isStore i = true → s.turn.phase = .dispatch ⟨.loadB, k⟩ →
        exec i s = .next { s.executing ⟨.loadB, k⟩ with
          byp := s.byp.set j ⟨true, ⟨.loadB, k⟩, (s.entry ⟨.loadB, k⟩).op2.value, false⟩ }

/-- The whole of W (R150 to R153), from every state whose tables agree: every done slot has its turn. Each busy entry's
waiting operands have heard the result of the done slot of their tag, if there is one; the ROB slot of a done slot's tag
is ready with its result; the entries the done slots serve are marked for removal; the done slots are free. Nothing else
changes. -/
def Obligations.WritebackServesEveryDoneSlot : Prop :=
  ∀ s : State, s.Runnable → s.LanesLegal → s.PoolsOk → s.SlotsOk → s.fault = .noFault →
    ∃ t, writebackPhase s = .next t ∧
      (∀ ref, t.entry ref = { s.entry ref with
        op1 := if (s.entry ref).busy then s.heard (s.entry ref).op1 else (s.entry ref).op1
        op2 := if (s.entry ref).busy then s.heard (s.entry ref).op2 else (s.entry ref).op2
        remove := (s.entry ref).remove || s.doneSlots.any fun l => (s.slotView l).rs == ref }) ∧
      (∀ l ∈ s.doneSlots, t.slot (s.tagOf l) = { s.slot (s.tagOf l) with
        ready := true, value := (s.slotView l).result
        misPred := if (s.entry (s.slotView l).rs).instr.opIsBranch then (s.slotView l).misPred
          else (s.slot (s.tagOf l)).misPred
        stage := .writeResult, ts := { (s.slot (s.tagOf l)).ts with writeResult := s.cycle + 1 } }) ∧
      (∀ u, (∀ l ∈ s.doneSlots, s.tagOf l ≠ u) → t.slot u = s.slot u) ∧
      (∀ c j, t.lane c j =
        if (s.lane c j).done then { s.lane c j with busy := false, done := false, ttl := 0 } else s.lane c j) ∧
      (∀ j, t.bypSlot j =
        if (s.bypSlot j).done then { s.bypSlot j with busy := false, done := false } else s.bypSlot j) ∧
      t.rob.head = s.rob.head ∧ t.rob.tail = s.rob.tail ∧ t.rob.count = s.rob.count ∧
      s.SameExcept t [.rob, .rs, .lanes, .byp, .turn]

/-- The whole of X2 (R130 to R134), from every state whose tables agree: with `q c` the entries offered a lane of class
`c`, oldest first, the free lanes of each class take them in this order, lowest lane first, as far as they go; of class
`MEMORY` only the oldest load that needs memory, and only without `memBlock`; every store and every forwarded load takes a
bypass slot with its data. Those entries are in execution and their ROB slots stamped. Nothing else changes, and no fault
is raised. That the bypass slots suffice is the spec's inference (R43), and that no scan fails too (R137). -/
def Obligations.DispatchServesOldestFirst : Prop :=
  ∀ (s : State) (q : UnitClass → List RsRef), s.Runnable → s.PoolsOk → s.SlotsOk → s.fault = .noFault →
    (∀ c ∈ UnitClass.all, s.Queue c (q c)) →
    ∃ t, dispatchPhase s = .next t ∧
      (∀ c, t.lanes.get c = fillLanes (s.cfg.lat.get c) (s.lanes.get c) (s.wantLane q c)) ∧
      t.byp = fillByp s.byp (s.wantBypass q) ∧
      (∀ ref, t.entry ref = { s.entry ref with inExec := (s.entry ref).inExec || decide (ref ∈ s.started q) }) ∧
      (∀ ref ∈ s.started q, ∀ x, x = s.slot (s.entry ref).tagD →
        t.slot (s.entry ref).tagD = { x with stage := .execute, ts := { x.ts with execute := s.cycle + 1 } }) ∧
      (∀ u, (∀ ref ∈ s.started q, (s.entry ref).tagD ≠ u) → t.slot u = s.slot u) ∧
      t.rob.head = s.rob.head ∧ t.rob.tail = s.rob.tail ∧ t.rob.count = s.rob.count ∧
      s.SameExcept t [.rob, .rs, .lanes, .byp, .turn]
end

