-- ==== Sys2Proof/Laws/State.lean ====
section
/-! SUPPORT. One lemma per field and update of State, so that no proof unfolds a record update; then reading back what
an accessor wrote. -/

namespace Sys2Proof.Machine

/-! ## raise -/

@[simp] theorem State.raise_cfg (s : State) (f : FaultCode) (p a : Word) : (s.raise f p a).cfg = s.cfg := rfl
@[simp] theorem State.raise_prog (s : State) (f : FaultCode) (p a : Word) : (s.raise f p a).prog = s.prog := rfl
@[simp] theorem State.raise_gpr (s : State) (f : FaultCode) (p a : Word) : (s.raise f p a).gpr = s.gpr := rfl
@[simp] theorem State.raise_fpr (s : State) (f : FaultCode) (p a : Word) : (s.raise f p a).fpr = s.fpr := rfl
@[simp] theorem State.raise_pc (s : State) (f : FaultCode) (p a : Word) : (s.raise f p a).pc = s.pc := rfl
@[simp] theorem State.raise_rob (s : State) (f : FaultCode) (p a : Word) : (s.raise f p a).rob = s.rob := rfl
@[simp] theorem State.raise_rs (s : State) (f : FaultCode) (p a : Word) : (s.raise f p a).rs = s.rs := rfl
@[simp] theorem State.raise_lanes (s : State) (f : FaultCode) (p a : Word) : (s.raise f p a).lanes = s.lanes := rfl
@[simp] theorem State.raise_byp (s : State) (f : FaultCode) (p a : Word) : (s.raise f p a).byp = s.byp := rfl
@[simp] theorem State.raise_memBlock (s : State) (f : FaultCode) (p a : Word) : (s.raise f p a).memBlock = s.memBlock := rfl
@[simp] theorem State.raise_mem (s : State) (f : FaultCode) (p a : Word) : (s.raise f p a).mem = s.mem := rfl
@[simp] theorem State.raise_cycle (s : State) (f : FaultCode) (p a : Word) : (s.raise f p a).cycle = s.cycle := rfl
@[simp] theorem State.raise_committed (s : State) (f : FaultCode) (p a : Word) : (s.raise f p a).committed = s.committed := rfl
@[simp] theorem State.raise_nextId (s : State) (f : FaultCode) (p a : Word) : (s.raise f p a).nextId = s.nextId := rfl
@[simp] theorem State.raise_fault (s : State) (f : FaultCode) (p a : Word) : (s.raise f p a).fault = f := rfl
@[simp] theorem State.raise_faultPc (s : State) (f : FaultCode) (p a : Word) : (s.raise f p a).faultPc = p := rfl
@[simp] theorem State.raise_faultAddr (s : State) (f : FaultCode) (p a : Word) : (s.raise f p a).faultAddr = a := rfl
@[simp] theorem State.raise_turn (s : State) (f : FaultCode) (p a : Word) : (s.raise f p a).turn = s.turn := rfl

/-! ## setReg -/

@[simp] theorem State.setReg_cfg (s : State) (r : RegName) (e : RegEntry) : (s.setReg r e).cfg = s.cfg := by cases r <;> rfl
@[simp] theorem State.setReg_prog (s : State) (r : RegName) (e : RegEntry) : (s.setReg r e).prog = s.prog := by cases r <;> rfl
@[simp] theorem State.setReg_pc (s : State) (r : RegName) (e : RegEntry) : (s.setReg r e).pc = s.pc := by cases r <;> rfl
@[simp] theorem State.setReg_rob (s : State) (r : RegName) (e : RegEntry) : (s.setReg r e).rob = s.rob := by cases r <;> rfl
@[simp] theorem State.setReg_rs (s : State) (r : RegName) (e : RegEntry) : (s.setReg r e).rs = s.rs := by cases r <;> rfl
@[simp] theorem State.setReg_lanes (s : State) (r : RegName) (e : RegEntry) : (s.setReg r e).lanes = s.lanes := by cases r <;> rfl
@[simp] theorem State.setReg_byp (s : State) (r : RegName) (e : RegEntry) : (s.setReg r e).byp = s.byp := by cases r <;> rfl
@[simp] theorem State.setReg_memBlock (s : State) (r : RegName) (e : RegEntry) : (s.setReg r e).memBlock = s.memBlock := by cases r <;> rfl
@[simp] theorem State.setReg_mem (s : State) (r : RegName) (e : RegEntry) : (s.setReg r e).mem = s.mem := by cases r <;> rfl
@[simp] theorem State.setReg_cycle (s : State) (r : RegName) (e : RegEntry) : (s.setReg r e).cycle = s.cycle := by cases r <;> rfl
@[simp] theorem State.setReg_committed (s : State) (r : RegName) (e : RegEntry) : (s.setReg r e).committed = s.committed := by cases r <;> rfl
@[simp] theorem State.setReg_nextId (s : State) (r : RegName) (e : RegEntry) : (s.setReg r e).nextId = s.nextId := by cases r <;> rfl
@[simp] theorem State.setReg_fault (s : State) (r : RegName) (e : RegEntry) : (s.setReg r e).fault = s.fault := by cases r <;> rfl
@[simp] theorem State.setReg_faultPc (s : State) (r : RegName) (e : RegEntry) : (s.setReg r e).faultPc = s.faultPc := by cases r <;> rfl
@[simp] theorem State.setReg_faultAddr (s : State) (r : RegName) (e : RegEntry) : (s.setReg r e).faultAddr = s.faultAddr := by cases r <;> rfl
@[simp] theorem State.setReg_turn (s : State) (r : RegName) (e : RegEntry) : (s.setReg r e).turn = s.turn := by cases r <;> rfl

/-! ## setSlot -/

@[simp] theorem State.setSlot_cfg (s : State) (t : Nat) (e : RobSlot) : (s.setSlot t e).cfg = s.cfg := rfl
@[simp] theorem State.setSlot_prog (s : State) (t : Nat) (e : RobSlot) : (s.setSlot t e).prog = s.prog := rfl
@[simp] theorem State.setSlot_gpr (s : State) (t : Nat) (e : RobSlot) : (s.setSlot t e).gpr = s.gpr := rfl
@[simp] theorem State.setSlot_fpr (s : State) (t : Nat) (e : RobSlot) : (s.setSlot t e).fpr = s.fpr := rfl
@[simp] theorem State.setSlot_pc (s : State) (t : Nat) (e : RobSlot) : (s.setSlot t e).pc = s.pc := rfl
@[simp] theorem State.setSlot_rs (s : State) (t : Nat) (e : RobSlot) : (s.setSlot t e).rs = s.rs := rfl
@[simp] theorem State.setSlot_lanes (s : State) (t : Nat) (e : RobSlot) : (s.setSlot t e).lanes = s.lanes := rfl
@[simp] theorem State.setSlot_byp (s : State) (t : Nat) (e : RobSlot) : (s.setSlot t e).byp = s.byp := rfl
@[simp] theorem State.setSlot_memBlock (s : State) (t : Nat) (e : RobSlot) : (s.setSlot t e).memBlock = s.memBlock := rfl
@[simp] theorem State.setSlot_mem (s : State) (t : Nat) (e : RobSlot) : (s.setSlot t e).mem = s.mem := rfl
@[simp] theorem State.setSlot_cycle (s : State) (t : Nat) (e : RobSlot) : (s.setSlot t e).cycle = s.cycle := rfl
@[simp] theorem State.setSlot_committed (s : State) (t : Nat) (e : RobSlot) : (s.setSlot t e).committed = s.committed := rfl
@[simp] theorem State.setSlot_nextId (s : State) (t : Nat) (e : RobSlot) : (s.setSlot t e).nextId = s.nextId := rfl
@[simp] theorem State.setSlot_fault (s : State) (t : Nat) (e : RobSlot) : (s.setSlot t e).fault = s.fault := rfl
@[simp] theorem State.setSlot_faultPc (s : State) (t : Nat) (e : RobSlot) : (s.setSlot t e).faultPc = s.faultPc := rfl
@[simp] theorem State.setSlot_faultAddr (s : State) (t : Nat) (e : RobSlot) : (s.setSlot t e).faultAddr = s.faultAddr := rfl
@[simp] theorem State.setSlot_turn (s : State) (t : Nat) (e : RobSlot) : (s.setSlot t e).turn = s.turn := rfl

/-! ## allocRob -/

@[simp] theorem State.allocRob_cfg (s : State) (r : Record) : (s.allocRob r).cfg = s.cfg := rfl
@[simp] theorem State.allocRob_prog (s : State) (r : Record) : (s.allocRob r).prog = s.prog := rfl
@[simp] theorem State.allocRob_gpr (s : State) (r : Record) : (s.allocRob r).gpr = s.gpr := rfl
@[simp] theorem State.allocRob_fpr (s : State) (r : Record) : (s.allocRob r).fpr = s.fpr := rfl
@[simp] theorem State.allocRob_pc (s : State) (r : Record) : (s.allocRob r).pc = s.pc := rfl
@[simp] theorem State.allocRob_rs (s : State) (r : Record) : (s.allocRob r).rs = s.rs := rfl
@[simp] theorem State.allocRob_lanes (s : State) (r : Record) : (s.allocRob r).lanes = s.lanes := rfl
@[simp] theorem State.allocRob_byp (s : State) (r : Record) : (s.allocRob r).byp = s.byp := rfl
@[simp] theorem State.allocRob_memBlock (s : State) (r : Record) : (s.allocRob r).memBlock = s.memBlock := rfl
@[simp] theorem State.allocRob_mem (s : State) (r : Record) : (s.allocRob r).mem = s.mem := rfl
@[simp] theorem State.allocRob_cycle (s : State) (r : Record) : (s.allocRob r).cycle = s.cycle := rfl
@[simp] theorem State.allocRob_committed (s : State) (r : Record) : (s.allocRob r).committed = s.committed := rfl
@[simp] theorem State.allocRob_nextId (s : State) (r : Record) : (s.allocRob r).nextId = s.nextId := rfl
@[simp] theorem State.allocRob_fault (s : State) (r : Record) : (s.allocRob r).fault = s.fault := rfl
@[simp] theorem State.allocRob_faultPc (s : State) (r : Record) : (s.allocRob r).faultPc = s.faultPc := rfl
@[simp] theorem State.allocRob_faultAddr (s : State) (r : Record) : (s.allocRob r).faultAddr = s.faultAddr := rfl
@[simp] theorem State.allocRob_turn (s : State) (r : Record) : (s.allocRob r).turn = s.turn := rfl

/-! ## setEntry -/

@[simp] theorem State.setEntry_cfg (s : State) (e : RsRef) (x : RsEntry) : (s.setEntry e x).cfg = s.cfg := rfl
@[simp] theorem State.setEntry_prog (s : State) (e : RsRef) (x : RsEntry) : (s.setEntry e x).prog = s.prog := rfl
@[simp] theorem State.setEntry_gpr (s : State) (e : RsRef) (x : RsEntry) : (s.setEntry e x).gpr = s.gpr := rfl
@[simp] theorem State.setEntry_fpr (s : State) (e : RsRef) (x : RsEntry) : (s.setEntry e x).fpr = s.fpr := rfl
@[simp] theorem State.setEntry_pc (s : State) (e : RsRef) (x : RsEntry) : (s.setEntry e x).pc = s.pc := rfl
@[simp] theorem State.setEntry_rob (s : State) (e : RsRef) (x : RsEntry) : (s.setEntry e x).rob = s.rob := rfl
@[simp] theorem State.setEntry_lanes (s : State) (e : RsRef) (x : RsEntry) : (s.setEntry e x).lanes = s.lanes := rfl
@[simp] theorem State.setEntry_byp (s : State) (e : RsRef) (x : RsEntry) : (s.setEntry e x).byp = s.byp := rfl
@[simp] theorem State.setEntry_memBlock (s : State) (e : RsRef) (x : RsEntry) : (s.setEntry e x).memBlock = s.memBlock := rfl
@[simp] theorem State.setEntry_mem (s : State) (e : RsRef) (x : RsEntry) : (s.setEntry e x).mem = s.mem := rfl
@[simp] theorem State.setEntry_cycle (s : State) (e : RsRef) (x : RsEntry) : (s.setEntry e x).cycle = s.cycle := rfl
@[simp] theorem State.setEntry_committed (s : State) (e : RsRef) (x : RsEntry) : (s.setEntry e x).committed = s.committed := rfl
@[simp] theorem State.setEntry_nextId (s : State) (e : RsRef) (x : RsEntry) : (s.setEntry e x).nextId = s.nextId := rfl
@[simp] theorem State.setEntry_fault (s : State) (e : RsRef) (x : RsEntry) : (s.setEntry e x).fault = s.fault := rfl
@[simp] theorem State.setEntry_faultPc (s : State) (e : RsRef) (x : RsEntry) : (s.setEntry e x).faultPc = s.faultPc := rfl
@[simp] theorem State.setEntry_faultAddr (s : State) (e : RsRef) (x : RsEntry) : (s.setEntry e x).faultAddr = s.faultAddr := rfl
@[simp] theorem State.setEntry_turn (s : State) (e : RsRef) (x : RsEntry) : (s.setEntry e x).turn = s.turn := rfl

/-! ## allocRs -/

@[simp] theorem State.allocRs_cfg (s : State) (e : RsRef) (r : Record) (t : Nat) (ops : Operands) : (s.allocRs e r t ops).cfg = s.cfg := rfl
@[simp] theorem State.allocRs_prog (s : State) (e : RsRef) (r : Record) (t : Nat) (ops : Operands) : (s.allocRs e r t ops).prog = s.prog := rfl
@[simp] theorem State.allocRs_gpr (s : State) (e : RsRef) (r : Record) (t : Nat) (ops : Operands) : (s.allocRs e r t ops).gpr = s.gpr := rfl
@[simp] theorem State.allocRs_fpr (s : State) (e : RsRef) (r : Record) (t : Nat) (ops : Operands) : (s.allocRs e r t ops).fpr = s.fpr := rfl
@[simp] theorem State.allocRs_pc (s : State) (e : RsRef) (r : Record) (t : Nat) (ops : Operands) : (s.allocRs e r t ops).pc = s.pc := rfl
@[simp] theorem State.allocRs_rob (s : State) (e : RsRef) (r : Record) (t : Nat) (ops : Operands) : (s.allocRs e r t ops).rob = s.rob := rfl
@[simp] theorem State.allocRs_lanes (s : State) (e : RsRef) (r : Record) (t : Nat) (ops : Operands) : (s.allocRs e r t ops).lanes = s.lanes := rfl
@[simp] theorem State.allocRs_byp (s : State) (e : RsRef) (r : Record) (t : Nat) (ops : Operands) : (s.allocRs e r t ops).byp = s.byp := rfl
@[simp] theorem State.allocRs_memBlock (s : State) (e : RsRef) (r : Record) (t : Nat) (ops : Operands) : (s.allocRs e r t ops).memBlock = s.memBlock := rfl
@[simp] theorem State.allocRs_mem (s : State) (e : RsRef) (r : Record) (t : Nat) (ops : Operands) : (s.allocRs e r t ops).mem = s.mem := rfl
@[simp] theorem State.allocRs_cycle (s : State) (e : RsRef) (r : Record) (t : Nat) (ops : Operands) : (s.allocRs e r t ops).cycle = s.cycle := rfl
@[simp] theorem State.allocRs_committed (s : State) (e : RsRef) (r : Record) (t : Nat) (ops : Operands) : (s.allocRs e r t ops).committed = s.committed := rfl
@[simp] theorem State.allocRs_nextId (s : State) (e : RsRef) (r : Record) (t : Nat) (ops : Operands) : (s.allocRs e r t ops).nextId = s.nextId + 1 := rfl
@[simp] theorem State.allocRs_fault (s : State) (e : RsRef) (r : Record) (t : Nat) (ops : Operands) : (s.allocRs e r t ops).fault = s.fault := rfl
@[simp] theorem State.allocRs_faultPc (s : State) (e : RsRef) (r : Record) (t : Nat) (ops : Operands) : (s.allocRs e r t ops).faultPc = s.faultPc := rfl
@[simp] theorem State.allocRs_faultAddr (s : State) (e : RsRef) (r : Record) (t : Nat) (ops : Operands) : (s.allocRs e r t ops).faultAddr = s.faultAddr := rfl
@[simp] theorem State.allocRs_turn (s : State) (e : RsRef) (r : Record) (t : Nat) (ops : Operands) : (s.allocRs e r t ops).turn = s.turn := rfl

/-! ## mapEntries -/

@[simp] theorem State.mapEntries_cfg (s : State) (g : RsEntry → RsEntry) : (s.mapEntries g).cfg = s.cfg := rfl
@[simp] theorem State.mapEntries_prog (s : State) (g : RsEntry → RsEntry) : (s.mapEntries g).prog = s.prog := rfl
@[simp] theorem State.mapEntries_gpr (s : State) (g : RsEntry → RsEntry) : (s.mapEntries g).gpr = s.gpr := rfl
@[simp] theorem State.mapEntries_fpr (s : State) (g : RsEntry → RsEntry) : (s.mapEntries g).fpr = s.fpr := rfl
@[simp] theorem State.mapEntries_pc (s : State) (g : RsEntry → RsEntry) : (s.mapEntries g).pc = s.pc := rfl
@[simp] theorem State.mapEntries_rob (s : State) (g : RsEntry → RsEntry) : (s.mapEntries g).rob = s.rob := rfl
@[simp] theorem State.mapEntries_rs (s : State) (g : RsEntry → RsEntry) : (s.mapEntries g).rs = s.rs.map fun l => l.map g := rfl
@[simp] theorem State.mapEntries_lanes (s : State) (g : RsEntry → RsEntry) : (s.mapEntries g).lanes = s.lanes := rfl
@[simp] theorem State.mapEntries_byp (s : State) (g : RsEntry → RsEntry) : (s.mapEntries g).byp = s.byp := rfl
@[simp] theorem State.mapEntries_memBlock (s : State) (g : RsEntry → RsEntry) : (s.mapEntries g).memBlock = s.memBlock := rfl
@[simp] theorem State.mapEntries_mem (s : State) (g : RsEntry → RsEntry) : (s.mapEntries g).mem = s.mem := rfl
@[simp] theorem State.mapEntries_cycle (s : State) (g : RsEntry → RsEntry) : (s.mapEntries g).cycle = s.cycle := rfl
@[simp] theorem State.mapEntries_committed (s : State) (g : RsEntry → RsEntry) : (s.mapEntries g).committed = s.committed := rfl
@[simp] theorem State.mapEntries_nextId (s : State) (g : RsEntry → RsEntry) : (s.mapEntries g).nextId = s.nextId := rfl
@[simp] theorem State.mapEntries_fault (s : State) (g : RsEntry → RsEntry) : (s.mapEntries g).fault = s.fault := rfl
@[simp] theorem State.mapEntries_faultPc (s : State) (g : RsEntry → RsEntry) : (s.mapEntries g).faultPc = s.faultPc := rfl
@[simp] theorem State.mapEntries_faultAddr (s : State) (g : RsEntry → RsEntry) : (s.mapEntries g).faultAddr = s.faultAddr := rfl
@[simp] theorem State.mapEntries_turn (s : State) (g : RsEntry → RsEntry) : (s.mapEntries g).turn = s.turn := rfl

/-! ## setLane -/

@[simp] theorem State.setLane_cfg (s : State) (c : UnitClass) (j : Nat) (l : Lane) : (s.setLane c j l).cfg = s.cfg := rfl
@[simp] theorem State.setLane_prog (s : State) (c : UnitClass) (j : Nat) (l : Lane) : (s.setLane c j l).prog = s.prog := rfl
@[simp] theorem State.setLane_gpr (s : State) (c : UnitClass) (j : Nat) (l : Lane) : (s.setLane c j l).gpr = s.gpr := rfl
@[simp] theorem State.setLane_fpr (s : State) (c : UnitClass) (j : Nat) (l : Lane) : (s.setLane c j l).fpr = s.fpr := rfl
@[simp] theorem State.setLane_pc (s : State) (c : UnitClass) (j : Nat) (l : Lane) : (s.setLane c j l).pc = s.pc := rfl
@[simp] theorem State.setLane_rob (s : State) (c : UnitClass) (j : Nat) (l : Lane) : (s.setLane c j l).rob = s.rob := rfl
@[simp] theorem State.setLane_rs (s : State) (c : UnitClass) (j : Nat) (l : Lane) : (s.setLane c j l).rs = s.rs := rfl
@[simp] theorem State.setLane_byp (s : State) (c : UnitClass) (j : Nat) (l : Lane) : (s.setLane c j l).byp = s.byp := rfl
@[simp] theorem State.setLane_memBlock (s : State) (c : UnitClass) (j : Nat) (l : Lane) : (s.setLane c j l).memBlock = s.memBlock := rfl
@[simp] theorem State.setLane_mem (s : State) (c : UnitClass) (j : Nat) (l : Lane) : (s.setLane c j l).mem = s.mem := rfl
@[simp] theorem State.setLane_cycle (s : State) (c : UnitClass) (j : Nat) (l : Lane) : (s.setLane c j l).cycle = s.cycle := rfl
@[simp] theorem State.setLane_committed (s : State) (c : UnitClass) (j : Nat) (l : Lane) : (s.setLane c j l).committed = s.committed := rfl
@[simp] theorem State.setLane_nextId (s : State) (c : UnitClass) (j : Nat) (l : Lane) : (s.setLane c j l).nextId = s.nextId := rfl
@[simp] theorem State.setLane_fault (s : State) (c : UnitClass) (j : Nat) (l : Lane) : (s.setLane c j l).fault = s.fault := rfl
@[simp] theorem State.setLane_faultPc (s : State) (c : UnitClass) (j : Nat) (l : Lane) : (s.setLane c j l).faultPc = s.faultPc := rfl
@[simp] theorem State.setLane_faultAddr (s : State) (c : UnitClass) (j : Nat) (l : Lane) : (s.setLane c j l).faultAddr = s.faultAddr := rfl
@[simp] theorem State.setLane_turn (s : State) (c : UnitClass) (j : Nat) (l : Lane) : (s.setLane c j l).turn = s.turn := rfl

/-! ## setByp -/

@[simp] theorem State.setByp_cfg (s : State) (j : Nat) (b : BypSlot) : (s.setByp j b).cfg = s.cfg := rfl
@[simp] theorem State.setByp_prog (s : State) (j : Nat) (b : BypSlot) : (s.setByp j b).prog = s.prog := rfl
@[simp] theorem State.setByp_gpr (s : State) (j : Nat) (b : BypSlot) : (s.setByp j b).gpr = s.gpr := rfl
@[simp] theorem State.setByp_fpr (s : State) (j : Nat) (b : BypSlot) : (s.setByp j b).fpr = s.fpr := rfl
@[simp] theorem State.setByp_pc (s : State) (j : Nat) (b : BypSlot) : (s.setByp j b).pc = s.pc := rfl
@[simp] theorem State.setByp_rob (s : State) (j : Nat) (b : BypSlot) : (s.setByp j b).rob = s.rob := rfl
@[simp] theorem State.setByp_rs (s : State) (j : Nat) (b : BypSlot) : (s.setByp j b).rs = s.rs := rfl
@[simp] theorem State.setByp_lanes (s : State) (j : Nat) (b : BypSlot) : (s.setByp j b).lanes = s.lanes := rfl
@[simp] theorem State.setByp_byp (s : State) (j : Nat) (b : BypSlot) : (s.setByp j b).byp = s.byp.set j b := rfl
@[simp] theorem State.setByp_memBlock (s : State) (j : Nat) (b : BypSlot) : (s.setByp j b).memBlock = s.memBlock := rfl
@[simp] theorem State.setByp_mem (s : State) (j : Nat) (b : BypSlot) : (s.setByp j b).mem = s.mem := rfl
@[simp] theorem State.setByp_cycle (s : State) (j : Nat) (b : BypSlot) : (s.setByp j b).cycle = s.cycle := rfl
@[simp] theorem State.setByp_committed (s : State) (j : Nat) (b : BypSlot) : (s.setByp j b).committed = s.committed := rfl
@[simp] theorem State.setByp_nextId (s : State) (j : Nat) (b : BypSlot) : (s.setByp j b).nextId = s.nextId := rfl
@[simp] theorem State.setByp_fault (s : State) (j : Nat) (b : BypSlot) : (s.setByp j b).fault = s.fault := rfl
@[simp] theorem State.setByp_faultPc (s : State) (j : Nat) (b : BypSlot) : (s.setByp j b).faultPc = s.faultPc := rfl
@[simp] theorem State.setByp_faultAddr (s : State) (j : Nat) (b : BypSlot) : (s.setByp j b).faultAddr = s.faultAddr := rfl
@[simp] theorem State.setByp_turn (s : State) (j : Nat) (b : BypSlot) : (s.setByp j b).turn = s.turn := rfl

/-! ## atPhase -/

@[simp] theorem State.atPhase_cfg (s : State) (p : Phase) : (s.atPhase p).cfg = s.cfg := rfl
@[simp] theorem State.atPhase_prog (s : State) (p : Phase) : (s.atPhase p).prog = s.prog := rfl
@[simp] theorem State.atPhase_gpr (s : State) (p : Phase) : (s.atPhase p).gpr = s.gpr := rfl
@[simp] theorem State.atPhase_fpr (s : State) (p : Phase) : (s.atPhase p).fpr = s.fpr := rfl
@[simp] theorem State.atPhase_pc (s : State) (p : Phase) : (s.atPhase p).pc = s.pc := rfl
@[simp] theorem State.atPhase_rob (s : State) (p : Phase) : (s.atPhase p).rob = s.rob := rfl
@[simp] theorem State.atPhase_rs (s : State) (p : Phase) : (s.atPhase p).rs = s.rs := rfl
@[simp] theorem State.atPhase_lanes (s : State) (p : Phase) : (s.atPhase p).lanes = s.lanes := rfl
@[simp] theorem State.atPhase_byp (s : State) (p : Phase) : (s.atPhase p).byp = s.byp := rfl
@[simp] theorem State.atPhase_memBlock (s : State) (p : Phase) : (s.atPhase p).memBlock = s.memBlock := rfl
@[simp] theorem State.atPhase_mem (s : State) (p : Phase) : (s.atPhase p).mem = s.mem := rfl
@[simp] theorem State.atPhase_cycle (s : State) (p : Phase) : (s.atPhase p).cycle = s.cycle := rfl
@[simp] theorem State.atPhase_committed (s : State) (p : Phase) : (s.atPhase p).committed = s.committed := rfl
@[simp] theorem State.atPhase_nextId (s : State) (p : Phase) : (s.atPhase p).nextId = s.nextId := rfl
@[simp] theorem State.atPhase_fault (s : State) (p : Phase) : (s.atPhase p).fault = s.fault := rfl
@[simp] theorem State.atPhase_faultPc (s : State) (p : Phase) : (s.atPhase p).faultPc = s.faultPc := rfl
@[simp] theorem State.atPhase_faultAddr (s : State) (p : Phase) : (s.atPhase p).faultAddr = s.faultAddr := rfl

/-! ## stopIssue -/

@[simp] theorem State.stopIssue_cfg (s : State) : (s.stopIssue).cfg = s.cfg := rfl
@[simp] theorem State.stopIssue_prog (s : State) : (s.stopIssue).prog = s.prog := rfl
@[simp] theorem State.stopIssue_gpr (s : State) : (s.stopIssue).gpr = s.gpr := rfl
@[simp] theorem State.stopIssue_fpr (s : State) : (s.stopIssue).fpr = s.fpr := rfl
@[simp] theorem State.stopIssue_pc (s : State) : (s.stopIssue).pc = s.pc := rfl
@[simp] theorem State.stopIssue_rob (s : State) : (s.stopIssue).rob = s.rob := rfl
@[simp] theorem State.stopIssue_rs (s : State) : (s.stopIssue).rs = s.rs := rfl
@[simp] theorem State.stopIssue_lanes (s : State) : (s.stopIssue).lanes = s.lanes := rfl
@[simp] theorem State.stopIssue_byp (s : State) : (s.stopIssue).byp = s.byp := rfl
@[simp] theorem State.stopIssue_memBlock (s : State) : (s.stopIssue).memBlock = s.memBlock := rfl
@[simp] theorem State.stopIssue_mem (s : State) : (s.stopIssue).mem = s.mem := rfl
@[simp] theorem State.stopIssue_cycle (s : State) : (s.stopIssue).cycle = s.cycle := rfl
@[simp] theorem State.stopIssue_committed (s : State) : (s.stopIssue).committed = s.committed := rfl
@[simp] theorem State.stopIssue_nextId (s : State) : (s.stopIssue).nextId = s.nextId := rfl
@[simp] theorem State.stopIssue_fault (s : State) : (s.stopIssue).fault = s.fault := rfl
@[simp] theorem State.stopIssue_faultPc (s : State) : (s.stopIssue).faultPc = s.faultPc := rfl
@[simp] theorem State.stopIssue_faultAddr (s : State) : (s.stopIssue).faultAddr = s.faultAddr := rfl

/-! ## advance -/

@[simp] theorem State.advance_cfg (s : State) (b : Bool) : (s.advance b).cfg = s.cfg := rfl
@[simp] theorem State.advance_prog (s : State) (b : Bool) : (s.advance b).prog = s.prog := rfl
@[simp] theorem State.advance_gpr (s : State) (b : Bool) : (s.advance b).gpr = s.gpr := rfl
@[simp] theorem State.advance_fpr (s : State) (b : Bool) : (s.advance b).fpr = s.fpr := rfl
@[simp] theorem State.advance_pc (s : State) (b : Bool) : (s.advance b).pc = s.pc + 4 := rfl
@[simp] theorem State.advance_rob (s : State) (b : Bool) : (s.advance b).rob = s.rob := rfl
@[simp] theorem State.advance_rs (s : State) (b : Bool) : (s.advance b).rs = s.rs := rfl
@[simp] theorem State.advance_lanes (s : State) (b : Bool) : (s.advance b).lanes = s.lanes := rfl
@[simp] theorem State.advance_byp (s : State) (b : Bool) : (s.advance b).byp = s.byp := rfl
@[simp] theorem State.advance_memBlock (s : State) (b : Bool) : (s.advance b).memBlock = s.memBlock := rfl
@[simp] theorem State.advance_mem (s : State) (b : Bool) : (s.advance b).mem = s.mem := rfl
@[simp] theorem State.advance_cycle (s : State) (b : Bool) : (s.advance b).cycle = s.cycle := rfl
@[simp] theorem State.advance_committed (s : State) (b : Bool) : (s.advance b).committed = s.committed := rfl
@[simp] theorem State.advance_nextId (s : State) (b : Bool) : (s.advance b).nextId = s.nextId := rfl
@[simp] theorem State.advance_fault (s : State) (b : Bool) : (s.advance b).fault = s.fault := rfl
@[simp] theorem State.advance_faultPc (s : State) (b : Bool) : (s.advance b).faultPc = s.faultPc := rfl
@[simp] theorem State.advance_faultAddr (s : State) (b : Bool) : (s.advance b).faultAddr = s.faultAddr := rfl

/-! ## squash -/

@[simp] theorem State.squash_cfg (s : State) (w : Word) : (s.squash w).cfg = s.cfg := by simp only [State.squash]
@[simp] theorem State.squash_prog (s : State) (w : Word) : (s.squash w).prog = s.prog := by simp only [State.squash]
@[simp] theorem State.squash_gpr (s : State) (w : Word) : (s.squash w).gpr = s.gpr.clearBusy := by simp only [State.squash]
@[simp] theorem State.squash_fpr (s : State) (w : Word) : (s.squash w).fpr = s.fpr.clearBusy := by simp only [State.squash]
@[simp] theorem State.squash_pc (s : State) (w : Word) : (s.squash w).pc = w := by simp only [State.squash]
@[simp] theorem State.squash_memBlock (s : State) (w : Word) : (s.squash w).memBlock = s.memBlock := by simp only [State.squash]
@[simp] theorem State.squash_mem (s : State) (w : Word) : (s.squash w).mem = s.mem := by simp only [State.squash]
@[simp] theorem State.squash_cycle (s : State) (w : Word) : (s.squash w).cycle = s.cycle := by simp only [State.squash]
@[simp] theorem State.squash_committed (s : State) (w : Word) : (s.squash w).committed = s.committed := by simp only [State.squash]
@[simp] theorem State.squash_nextId (s : State) (w : Word) : (s.squash w).nextId = s.nextId := by simp only [State.squash]
@[simp] theorem State.squash_fault (s : State) (w : Word) : (s.squash w).fault = s.fault := by simp only [State.squash]
@[simp] theorem State.squash_faultPc (s : State) (w : Word) : (s.squash w).faultPc = s.faultPc := by simp only [State.squash]
@[simp] theorem State.squash_faultAddr (s : State) (w : Word) : (s.squash w).faultAddr = s.faultAddr := by simp only [State.squash]
@[simp] theorem State.squash_turn (s : State) (w : Word) : (s.squash w).turn = s.turn := by simp only [State.squash]

/-! ## Parts of the changed fields -/

@[simp] theorem State.setSlot_head (s : State) (t : Nat) (e : RobSlot) : (s.setSlot t e).rob.head = s.rob.head := rfl
@[simp] theorem State.setSlot_tail (s : State) (t : Nat) (e : RobSlot) : (s.setSlot t e).rob.tail = s.rob.tail := rfl
@[simp] theorem State.setSlot_count (s : State) (t : Nat) (e : RobSlot) : (s.setSlot t e).rob.count = s.rob.count := rfl
@[simp] theorem State.setSlot_slots (s : State) (t : Nat) (e : RobSlot) :
    (s.setSlot t e).rob.slots = s.rob.slots.set t e := rfl
@[simp] theorem State.atPhase_phase (s : State) (p : Phase) : (s.atPhase p).turn.phase = p := rfl
@[simp] theorem State.atPhase_memTimedIssued (s : State) (p : Phase) :
    (s.atPhase p).turn.memTimedIssued = s.turn.memTimedIssued := rfl
@[simp] theorem State.atPhase_memDone (s : State) (p : Phase) : (s.atPhase p).turn.memDone = s.turn.memDone := rfl
@[simp] theorem State.atPhase_issued (s : State) (p : Phase) : (s.atPhase p).turn.issued = s.turn.issued := rfl
@[simp] theorem State.allocRob_head (s : State) (r : Record) : (s.allocRob r).rob.head = s.rob.head := rfl
@[simp] theorem State.allocRob_tail (s : State) (r : Record) :
    (s.allocRob r).rob.tail = (s.rob.tail + 1) % s.cfg.robSize := rfl
@[simp] theorem State.allocRob_count (s : State) (r : Record) : (s.allocRob r).rob.count = s.rob.count + 1 := rfl

/-! ## The per-class and per-pool records -/

@[simp] theorem PerClass.get_set_same {α : Type} (x : PerClass α) (c : UnitClass) (v : α) :
    (PerClass.set x c v).get c = v := by cases c <;> rfl

theorem PerClass.get_set_other {α : Type} (x : PerClass α) (c d : UnitClass) (v : α) (h : d ≠ c) :
    (PerClass.set x c v).get d = x.get d := by cases c <;> cases d <;> first | rfl | exact absurd rfl h

@[simp] theorem PerClass.get_map {α β : Type} (f : α → β) (x : PerClass α) (c : UnitClass) :
    (PerClass.map f x).get c = f (x.get c) := by cases c <;> rfl

@[simp] theorem PerClass.set_set {α : Type} (x : PerClass α) (c : UnitClass) (v w : α) :
    (PerClass.set x c v).set c w = x.set c w := by cases c <;> rfl

@[simp] theorem PerPool.get_set_same {α : Type} (x : PerPool α) (p : Pool) (v : α) :
    (PerPool.set x p v).get p = v := by cases p <;> rfl

theorem PerPool.get_set_other {α : Type} (x : PerPool α) (p q : Pool) (v : α) (h : q ≠ p) :
    (PerPool.set x p v).get q = x.get q := by cases p <;> cases q <;> first | rfl | exact absurd rfl h

@[simp] theorem PerPool.get_map {α β : Type} (f : α → β) (x : PerPool α) (p : Pool) :
    (PerPool.map f x).get p = f (x.get p) := by cases p <;> rfl

/-! ## Reading back -/

@[simp] theorem State.reg_setReg_same (s : State) (r : RegName) (e : RegEntry) : (s.setReg r e).reg r = e := by
  cases r <;> simp [State.reg, State.setReg]

theorem State.reg_setReg_other (s : State) (r q : RegName) (e : RegEntry) (h : q ≠ r) :
    (s.setReg r e).reg q = s.reg q := by
  cases r <;> cases q <;> simp_all [State.reg, State.setReg, Fin.val_inj, eq_comm]

theorem State.slot_setSlot (s : State) (t u : Nat) (e : RobSlot) :
    (s.setSlot t e).slot u = if t = u ∧ t < s.rob.slots.length then e else s.slot u := by
  by_cases h : t = u
  · subst h
    by_cases hl : t < s.rob.slots.length
    · simp [State.slot, State.setSlot, hl]
    · simp [State.slot, State.setSlot, List.set_eq_of_length_le (Nat.le_of_not_lt hl), hl]
  · simp [State.slot, State.setSlot, h]

theorem State.entry_setEntry_same (s : State) (r : RsRef) (x : RsEntry) (h : r.idx < (s.rs.get r.pool).length) :
    (s.setEntry r x).entry r = x := by
  simp [State.entry, State.setEntry, h]

theorem State.entry_setEntry_other (s : State) (r q : RsRef) (x : RsEntry) (h : q ≠ r) :
    (s.setEntry r x).entry q = s.entry q := by
  obtain ⟨p, k⟩ := r
  obtain ⟨p', k'⟩ := q
  by_cases hp : p' = p
  · subst hp
    have : k ≠ k' := by rintro rfl; exact h rfl
    simp [State.entry, State.setEntry, this]
  · simp [State.entry, State.setEntry, PerPool.get_set_other _ _ _ _ hp]

theorem State.lane_setLane_same (s : State) (c : UnitClass) (j : Nat) (l : Lane) (h : j < (s.lanes.get c).length) :
    (s.setLane c j l).lane c j = l := by
  simp [State.lane, State.setLane, h]

theorem State.lane_setLane_other (s : State) (c d : UnitClass) (j k : Nat) (l : Lane) (h : (d, k) ≠ (c, j)) :
    (s.setLane c j l).lane d k = s.lane d k := by
  by_cases hc : d = c
  · subst hc
    have : j ≠ k := by rintro rfl; exact h rfl
    simp [State.lane, State.setLane, this]
  · simp [State.lane, State.setLane, PerClass.get_set_other _ _ _ _ hc]

@[simp] theorem State.setLane_setLane (s : State) (c : UnitClass) (j : Nat) (l l' : Lane) :
    (s.setLane c j l).setLane c j l' = s.setLane c j l' := by
  simp [State.setLane, List.set_set]

theorem State.bypSlot_setByp_same (s : State) (j : Nat) (b : BypSlot) (h : j < s.byp.length) :
    (s.setByp j b).bypSlot j = b := by
  simp [State.bypSlot, State.setByp, h]

theorem State.bypSlot_setByp_other (s : State) (j k : Nat) (b : BypSlot) (h : k ≠ j) :
    (s.setByp j b).bypSlot k = s.bypSlot k := by
  simp [State.bypSlot, State.setByp, h.symm]

/-! ## Accessors of fields an update leaves alone -/

@[simp] theorem State.slot_setEntry (s : State) (r : RsRef) (x : RsEntry) (t : Nat) : (s.setEntry r x).slot t = s.slot t := rfl
@[simp] theorem State.slot_setLane (s : State) (c : UnitClass) (j : Nat) (l : Lane) (t : Nat) :
    (s.setLane c j l).slot t = s.slot t := rfl
@[simp] theorem State.slot_setByp (s : State) (j : Nat) (b : BypSlot) (t : Nat) : (s.setByp j b).slot t = s.slot t := rfl
@[simp] theorem State.slot_atPhase (s : State) (p : Phase) (t : Nat) : (s.atPhase p).slot t = s.slot t := rfl
@[simp] theorem State.slot_setReg (s : State) (r : RegName) (e : RegEntry) (t : Nat) : (s.setReg r e).slot t = s.slot t := by
  cases r <;> rfl
@[simp] theorem State.entry_setSlot (s : State) (t : Nat) (e : RobSlot) (r : RsRef) : (s.setSlot t e).entry r = s.entry r := rfl
@[simp] theorem State.entry_setLane (s : State) (c : UnitClass) (j : Nat) (l : Lane) (r : RsRef) :
    (s.setLane c j l).entry r = s.entry r := rfl
@[simp] theorem State.entry_setByp (s : State) (j : Nat) (b : BypSlot) (r : RsRef) : (s.setByp j b).entry r = s.entry r := rfl
@[simp] theorem State.entry_atPhase (s : State) (p : Phase) (r : RsRef) : (s.atPhase p).entry r = s.entry r := rfl
@[simp] theorem State.lane_setSlot (s : State) (t : Nat) (e : RobSlot) (c : UnitClass) (j : Nat) :
    (s.setSlot t e).lane c j = s.lane c j := rfl
@[simp] theorem State.lane_setEntry (s : State) (r : RsRef) (x : RsEntry) (c : UnitClass) (j : Nat) :
    (s.setEntry r x).lane c j = s.lane c j := rfl
@[simp] theorem State.lane_atPhase (s : State) (p : Phase) (c : UnitClass) (j : Nat) : (s.atPhase p).lane c j = s.lane c j := rfl
@[simp] theorem State.reg_setSlot (s : State) (t : Nat) (e : RobSlot) (r : RegName) : (s.setSlot t e).reg r = s.reg r := by
  cases r <;> rfl
@[simp] theorem State.reg_setEntry (s : State) (q : RsRef) (x : RsEntry) (r : RegName) : (s.setEntry q x).reg r = s.reg r := by
  cases r <;> rfl
@[simp] theorem State.reg_setLane (s : State) (c : UnitClass) (j : Nat) (l : Lane) (r : RegName) :
    (s.setLane c j l).reg r = s.reg r := by cases r <;> rfl
@[simp] theorem State.reg_allocRob (s : State) (x : Record) (r : RegName) : (s.allocRob x).reg r = s.reg r := by
  cases r <;> rfl
@[simp] theorem State.reg_atPhase (s : State) (p : Phase) (r : RegName) : (s.atPhase p).reg r = s.reg r := by
  cases r <;> rfl

end Sys2Proof.Machine
end

