-- ==== Sys2Proof/Laws/Memory.lean ====
section
/-! SUPPORT. Data memory: every write keeps the canonical form, a read after a write, and the frame of a word write. -/

namespace Sys2Proof.Machine

theorem Memory.above_mono {a b : Nat} {m : Memory} (h : Memory.above b m = true) (hab : a ≤ b) :
    Memory.above a m = true := by
  simp only [Memory.above, List.all_eq_true, decide_eq_true_eq] at *
  exact fun c hc => lt_of_le_of_lt hab (h c hc)

theorem Memory.read_of_above {a b : Nat} {m : Memory} (h : Memory.above a m = true) (hb : b ≤ a) :
    m.read b = Memory.unlisted := by
  induction m with
  | nil => rfl
  | cons c m ih =>
    simp only [Memory.above, List.all_cons, Bool.and_eq_true, decide_eq_true_eq] at h
    have hne : c.1 ≠ b := by omega
    simp only [Memory.read, hne, if_false]
    exact ih h.2

theorem Memory.wf_cons {c : Host.Cell} {m : Memory} :
    Memory.wf (c :: m) = true ↔ Memory.above c.1 m = true ∧ c.2 ≠ Memory.unlisted ∧ Memory.wf m = true := by
  simp [Memory.wf, and_assoc]

theorem Memory.wf_put {a : Nat} {b : Byte} {m : Memory} (hm : m.wf = true) (ha : Memory.above a m = true) :
    (Memory.put a b m).wf = true := by
  unfold Memory.put
  split
  · exact hm
  · exact Memory.wf_cons.2 ⟨ha, by assumption, hm⟩

theorem Memory.above_put {a x : Nat} {b : Byte} {m : Memory} (hm : Memory.above x m = true) (ha : x < a) :
    Memory.above x (Memory.put a b m) = true := by
  unfold Memory.put
  split
  · exact hm
  · simp only [Memory.above, List.all_cons, Bool.and_eq_true, decide_eq_true_eq] at hm ⊢
    exact ⟨ha, hm⟩

theorem Memory.above_write {a x : Nat} {b : Byte} {m : Memory} (hm : Memory.above x m = true) (ha : x < a) :
    Memory.above x (m.write a b) = true := by
  induction m with
  | nil => exact Memory.above_put rfl ha
  | cons c m ih =>
    have hc : x < c.1 ∧ Memory.above x m = true := by
      simpa [Memory.above] using hm
    unfold Memory.write
    split_ifs
    · exact Memory.above_put hm ha
    · exact Memory.above_put hc.2 ha
    · simpa [Memory.above, hc.1] using ih hc.2

/-- Writing a byte keeps the canonical form. -/
theorem Memory.wf_write {a : Nat} {b : Byte} {m : Memory} (hm : m.wf = true) : (m.write a b).wf = true := by
  induction m with
  | nil => exact Memory.wf_put hm rfl
  | cons c m ih =>
    obtain ⟨habove, hne, hwf⟩ := Memory.wf_cons.1 hm
    unfold Memory.write
    split_ifs with h1 h2
    · refine Memory.wf_put hm ?_
      simp only [Memory.above, List.all_cons, Bool.and_eq_true, decide_eq_true_eq]
      exact ⟨h1, by simpa [Memory.above] using Memory.above_mono habove h1.le⟩
    · subst h2; exact Memory.wf_put hwf habove
    · exact Memory.wf_cons.2 ⟨Memory.above_write habove (by omega), hne, ih hwf⟩

theorem Memory.read_put_same {a : Nat} {b : Byte} {m : Memory} (h : Memory.above a m = true) :
    (Memory.put a b m).read a = b := by
  unfold Memory.put
  split
  · rename_i hb
    rw [Memory.read_of_above h le_rfl, hb]
  · simp [Memory.read]

theorem Memory.read_put_other {a x : Nat} {b : Byte} {m : Memory} (h : x ≠ a) :
    (Memory.put a b m).read x = m.read x := by
  unfold Memory.put
  split
  · rfl
  · simp [Memory.read, h.symm]

/-- Reading the byte just written. -/
theorem Memory.read_write_same {a : Nat} {b : Byte} {m : Memory} (hm : m.wf = true) : (m.write a b).read a = b := by
  induction m with
  | nil => exact Memory.read_put_same rfl
  | cons c m ih =>
    obtain ⟨habove, -, hwf⟩ := Memory.wf_cons.1 hm
    unfold Memory.write
    split_ifs with h1 h2
    · refine Memory.read_put_same ?_
      simp only [Memory.above, List.all_cons, Bool.and_eq_true, decide_eq_true_eq]
      exact ⟨h1, by simpa [Memory.above] using Memory.above_mono habove h1.le⟩
    · subst h2; exact Memory.read_put_same habove
    · simpa [Memory.read, Ne.symm h2] using ih hwf

/-- Reading another byte than the one written. -/
theorem Memory.read_write_other {a x : Nat} {b : Byte} {m : Memory} (h : x ≠ a) : (m.write a b).read x = m.read x := by
  induction m with
  | nil => exact Memory.read_put_other h
  | cons c m ih =>
    unfold Memory.write
    split_ifs with h1 h2
    · exact Memory.read_put_other h
    · subst h2
      rw [Memory.read_put_other h]
      simp [Memory.read, h.symm]
    · simp [Memory.read, ih]

/-- Reading a byte after writing one, in a memory of canonical form. -/
theorem Memory.read_write {a : Nat} {b : Byte} {m : Memory} (hm : m.wf = true) (x : Nat) :
    (m.write a b).read x = if x = a then b else m.read x := by
  split_ifs with h
  · subst h; exact Memory.read_write_same hm
  · exact Memory.read_write_other h

/-- A word write keeps the canonical form. -/
theorem Memory.wf_writeWord {m : Memory} (hm : m.wf = true) (a : Nat) (v : Word) : (m.writeWord a v).wf = true :=
  Memory.wf_write (Memory.wf_write (Memory.wf_write (Memory.wf_write hm)))

/-- The bytes after a word write: the word's own four, little-endian, and every other as before. -/
theorem Memory.read_writeWord {m : Memory} (hm : m.wf = true) (a x : Nat) (v : Word) :
    (m.writeWord a v).read x =
      if x = a + 3 then v.extractLsb' 24 8 else if x = a + 2 then v.extractLsb' 16 8
      else if x = a + 1 then v.extractLsb' 8 8 else if x = a then v.extractLsb' 0 8 else m.read x := by
  unfold Memory.writeWord
  rw [Memory.read_write (Memory.wf_write (Memory.wf_write (Memory.wf_write hm))),
    Memory.read_write (Memory.wf_write (Memory.wf_write hm)), Memory.read_write (Memory.wf_write hm),
    Memory.read_write hm]

/-- The memory of the reset state has the canonical form. -/
theorem reset_mem_wf : State.reset.mem.wf = true := rfl

/-- Every access that succeeds: aligned, and inside `MEM_SIZE` (R63, R64). -/
theorem accessFault_eq_none {cfg : Config} {a : Word} :
    accessFault cfg a = none ↔ a.toNat % 4 = 0 ∧ a.toNat + 4 ≤ cfg.memSize := by
  unfold accessFault
  split_ifs with h1 h2
  · simp [h1]
  · simp only [false_iff, not_and, not_le]; exact fun _ => h2
  · simp only [true_iff]; exact ⟨not_not.1 h1, Nat.le_of_not_lt h2⟩

/-- What a memory write that succeeds does: only `mem` changes, and it keeps the canonical form. -/
theorem State.memWrite_ok {s t : State} {a v : Word} (h : s.memWrite a v = .ok t) :
    accessFault s.cfg a = none ∧ t = { s with mem := s.mem.writeWord a.toNat v } := by
  unfold State.memWrite at h
  split at h
  · cases h
  · rename_i hf
    exact ⟨hf, (Except.ok.inj h).symm⟩

end Sys2Proof.Machine
end

