-- ==== Sys2Proof/Laws/Ops.lean ====
section
/-! SUPPORT. What the shared operations can do, said once: sequencing, loops, the lowest free index, pop. -/

namespace Sys2Proof.Machine

/-! ## Sequencing (R13, R301) -/

@[simp] theorem andThen_next (s : State) (f : State → Result) :
    andThen (.next s) f = if s.fault = .noFault then f s else .next s := rfl

/-- A sequence that answers a next state: either the first action raised a fault, and the sequence ends there, or the
second ran on its state. -/
theorem andThen_eq_next {o : Result} {f : State → Result} {t : State} (h : andThen o f = .next t) :
    ∃ s, o = .next s ∧ ((s.fault ≠ .noFault ∧ t = s) ∨ (s.fault = .noFault ∧ f s = .next t)) := by
  cases o with
  | next s =>
    refine ⟨s, rfl, ?_⟩
    by_cases hs : s.fault = .noFault
    · exact .inr ⟨hs, by simpa [andThen, hs] using h⟩
    · exact .inl ⟨hs, by simpa [andThen, hs, eq_comm] using h⟩
  | fault e => cases h
  | refused e => cases h

/-- A sequence of actions that always answer a next state answers one. -/
theorem andThen_next_of {o : Result} {f : State → Result} (ho : ∃ s, o = .next s) (hf : ∀ s, ∃ t, f s = .next t) :
    ∃ t, andThen o f = .next t := by
  obtain ⟨s, rfl⟩ := ho
  rw [andThen_next]
  split_ifs
  · exact hf s
  · exact ⟨s, rfl⟩

/-- Sequences nest either way: a fault ends both. -/
theorem andThen_assoc (o : Result) (f g : State → Result) :
    andThen (andThen o f) g = andThen o fun s => andThen (f s) g := by
  cases o with
  | next s => by_cases h : s.fault = .noFault <;> simp [h]
  | fault e => rfl
  | refused e => rfl

@[simp] theorem forEach_nil {α : Type} (f : α → State → Result) (s : State) : forEach f [] s = .next s := rfl

@[simp] theorem forEach_cons {α : Type} (f : α → State → Result) (x : α) (l : List α) (s : State) :
    forEach f (x :: l) s = andThen (f x s) (forEach f l) := rfl

theorem forEach_next {α : Type} {f : α → State → Result} (hf : ∀ x s, ∃ t, f x s = .next t) (l : List α) :
    ∀ s, ∃ t, forEach f l s = .next t := by
  induction l with
  | nil => exact fun s => ⟨s, rfl⟩
  | cons x l ih => exact fun s => andThen_next_of (hf x s) ih

/-- A relation every pass of a loop keeps, kept along the loop. -/
theorem forEach_keeps {α : Type} {f : α → State → Result} {P : State → Prop}
    (hf : ∀ x s t, P s → f x s = .next t → P t) (l : List α) :
    ∀ s t, P s → forEach f l s = .next t → P t := by
  induction l with
  | nil => intro s t hs h; cases h; exact hs
  | cons x l ih =>
    intro s t hs h
    obtain ⟨u, hu, ⟨-, rfl⟩ | ⟨-, h⟩⟩ := andThen_eq_next h
    · exact hf x s t hs hu
    · exact ih u t (hf x s u hs hu) h

/-! ## Filling free lanes and bypass slots from a queue (R131, R132) -/

@[simp] theorem fillLanes_empty (lat : Nat) (ls : List Lane) : fillLanes lat ls [] = ls := by cases ls <;> rfl

theorem fillLanes_busy {l : Lane} (h : l.busy = true) (lat : Nat) (ls : List Lane) (q : List RsRef) :
    fillLanes lat (l :: ls) q = l :: fillLanes lat ls q := by cases q <;> simp [fillLanes, h]

theorem fillLanes_free {l : Lane} (h : l.busy = false) (lat : Nat) (ls : List Lane) (r : RsRef) (q : List RsRef) :
    fillLanes lat (l :: ls) (r :: q) = ⟨true, r, lat, 0, false, false⟩ :: fillLanes lat ls q := by simp [fillLanes, h]

@[simp] theorem fillByp_empty (bs : List BypSlot) : fillByp bs [] = bs := by cases bs <;> rfl

theorem fillByp_busy {b : BypSlot} (h : b.busy = true) (bs : List BypSlot) (q : List (RsRef × Word)) :
    fillByp (b :: bs) q = b :: fillByp bs q := by cases q <;> simp [fillByp, h]

theorem fillByp_free {b : BypSlot} (h : b.busy = false) (bs : List BypSlot) (x : RsRef × Word)
    (q : List (RsRef × Word)) : fillByp (b :: bs) (x :: q) = ⟨true, x.1, x.2, false⟩ :: fillByp bs q := by
  simp [fillByp, h]

/-! ## The lowest free index (R110, R131, R132) -/

theorem firstIdx_spec {α : Type} {p : α → Bool} {l : List α} {k n : Nat} (h : firstIdx p l k = some n) :
    k ≤ n ∧ ∃ x, l[n - k]? = some x ∧ p x = true ∧ ∀ m < n - k, ∀ y, l[m]? = some y → p y = false := by
  induction l generalizing k with
  | nil => cases h
  | cons a l ih =>
    unfold firstIdx at h
    split_ifs at h with ha
    · cases h
      exact ⟨le_rfl, a, by simp, ha, by omega⟩
    · obtain ⟨hle, x, hx, hpx, hmin⟩ := ih h
      refine ⟨by omega, x, ?_, hpx, ?_⟩
      · rw [show n - k = (n - (k + 1)) + 1 by omega]; simpa using hx
      · intro m hm y hy
        cases m with
        | zero => simp only [List.getElem?_cons_zero, Option.some.injEq] at hy; subst hy; simpa using ha
        | succ m => exact hmin m (by omega) y (by simpa using hy)

theorem firstIdx_none {α : Type} {p : α → Bool} {l : List α} {k : Nat} (h : firstIdx p l k = none) :
    ∀ x ∈ l, p x = false := by
  induction l generalizing k with
  | nil => simp
  | cons a l ih =>
    unfold firstIdx at h
    split_ifs at h with ha
    intro x hx
    cases hx with
    | head => simpa using ha
    | tail _ hx => exact ih h x hx

/-- The lowest free entry of a pool: inside the pool, free, and every lower entry is busy. -/
theorem State.freeEntry_spec {s : State} {p : Pool} {k : Nat} (h : s.freeEntry p = some k) :
    k < (s.rs.get p).length ∧ (s.entry ⟨p, k⟩).busy = false ∧ ∀ m < k, (s.entry ⟨p, m⟩).busy = true := by
  obtain ⟨-, x, hx, hp, hmin⟩ := firstIdx_spec h
  simp only [Nat.sub_zero] at hx hmin
  have hlen : k < (s.rs.get p).length := (List.getElem?_eq_some_iff.1 hx).1
  refine ⟨hlen, by simpa [State.entry, hx] using hp, fun m hm => ?_⟩
  have hm' : m < (s.rs.get p).length := hm.trans hlen
  have := hmin m hm _ (List.getElem?_eq_getElem hm')
  simpa [State.entry, List.getElem?_eq_getElem hm'] using this

/-- An index that is the lowest one is the one found. -/
theorem firstIdx_lowest {α : Type} {p : α → Bool} {l : List α} {b k : Nat} (hk : k < l.length)
    (hp : ∀ x, l[k]? = some x → p x = true) (hm : ∀ m < k, ∀ x, l[m]? = some x → p x = false) :
    firstIdx p l b = some (b + k) := by
  induction l generalizing b k with
  | nil => simp at hk
  | cons a l ih =>
    cases k with
    | zero => simp [firstIdx, hp a (by simp)]
    | succ k =>
      have ha : p a = false := hm 0 (by omega) a (by simp)
      have := ih (b := b + 1) (k := k) (by simpa using hk) (fun x hx => hp x (by simpa using hx))
        (fun m hmk x hx => hm (m + 1) (by omega) x (by simpa using hx))
      simp only [firstIdx, ha, this, Bool.false_eq_true, if_false]
      exact congrArg some (by omega)

theorem firstIdx_eq_none {α : Type} {p : α → Bool} {l : List α} {b : Nat} (h : ∀ x ∈ l, p x = false) :
    firstIdx p l b = none := by
  induction l generalizing b with
  | nil => rfl
  | cons a l ih => simp [firstIdx, h a (by simp), ih fun x hx => h x (by simp [hx])]

theorem State.freeEntry_lowest {s : State} {p : Pool} {k : Nat} (hk : k < (s.rs.get p).length)
    (hf : (s.entry ⟨p, k⟩).busy = false) (hm : ∀ m < k, (s.entry ⟨p, m⟩).busy = true) : s.freeEntry p = some k := by
  have := firstIdx_lowest (p := fun e : RsEntry => !e.busy) (b := 0) hk
    (fun x hx => by simpa [State.entry, hx] using hf) (fun m hmk x hx => by simpa [State.entry, hx] using hm m hmk)
  simpa [State.freeEntry] using this

theorem State.freeEntry_none {s : State} {p : Pool} (h : ∀ e ∈ s.rs.get p, e.busy = true) : s.freeEntry p = none :=
  firstIdx_eq_none fun e he => by simp [h e he]

theorem State.freeLane_lowest {s : State} {c : UnitClass} {j : Nat} (hj : j < (s.lanes.get c).length)
    (hf : (s.lane c j).busy = false) (hm : ∀ m < j, (s.lane c m).busy = true) : s.freeLane c = some j := by
  have := firstIdx_lowest (p := fun l : Lane => !l.busy) (b := 0) hj
    (fun x hx => by simpa [State.lane, hx] using hf) (fun m hmk x hx => by simpa [State.lane, hx] using hm m hmk)
  simpa [State.freeLane] using this

theorem State.freeLane_none {s : State} {c : UnitClass} (h : ∀ l ∈ s.lanes.get c, l.busy = true) :
    s.freeLane c = none := firstIdx_eq_none fun l hl => by simp [h l hl]

theorem State.freeByp_lowest {s : State} {j : Nat} (hj : j < s.byp.length) (hf : (s.bypSlot j).busy = false)
    (hm : ∀ m < j, (s.bypSlot m).busy = true) : s.freeByp = some j := by
  have := firstIdx_lowest (p := fun b : BypSlot => !b.busy) (b := 0) hj
    (fun x hx => by simpa [State.bypSlot, hx] using hf) (fun m hmk x hx => by simpa [State.bypSlot, hx] using hm m hmk)
  simpa [State.freeByp] using this

/-! ## Pop (R33) -/

theorem State.popAndCount_of_ne {s : State} (h : s.rob.count ≠ 0) :
    s.popAndCount =
      { s with
        rob :=
          { slots := s.rob.slots.set s.rob.head { s.headSlot with live := false }
            head := (s.rob.head + 1) % s.cfg.robSize
            tail := s.rob.tail
            count := s.rob.count - 1 }
        committed := s.committed + 1 } := by
  simp [State.popAndCount, h]

end Sys2Proof.Machine
end

