-- ==== Sys2Proof/Laws/Actions.lean ====
section
/-! SUPPORT. One lemma per shared action, saying once everything the action can do. A proof about an instruction cites
these and unfolds no action. -/

namespace Sys2Proof.Machine

/-! ## Issue -/

/-- Issue stops, with nothing allocated (R104, R108, R114), or allocates whole (R109 to R113). -/
theorem State.issueInto_cases (s : State) (p : Pool) (ops : Operands) (b : Bool) (r : Record) :
    (s.issueInto p ops b r = s.stopIssue ∧ (s.robFull = true ∨ s.freeEntry p = none)) ∨
    ∃ k, s.robFull = false ∧ s.freeEntry p = some k ∧
      s.issueInto p ops b r =
        (((s.allocRob r).allocRs ⟨p, k⟩ r s.rob.tail ops).renameDst ops.dst s.rob.tail).advance b := by
  unfold State.issueInto
  cases hf : s.robFull
  · cases hk : s.freeEntry p with
    | none => exact .inl ⟨rfl, .inr rfl⟩
    | some k => exact .inr ⟨k, rfl, rfl, rfl⟩
  · exact .inl ⟨rfl, .inl rfl⟩

theorem State.issueInto_room {s : State} {p : Pool} {k : Nat} (hr : s.robFull = false) (hk : s.freeEntry p = some k)
    (ops : Operands) (b : Bool) (r : Record) :
    s.issueInto p ops b r =
      (((s.allocRob r).allocRs ⟨p, k⟩ r s.rob.tail ops).renameDst ops.dst s.rob.tail).advance b := by
  simp [State.issueInto, hr, hk]

theorem State.issueInto_full {s : State} {p : Pool} (h : s.robFull = true ∨ s.freeEntry p = none)
    (ops : Operands) (b : Bool) (r : Record) : s.issueInto p ops b r = s.stopIssue := by
  rcases s.issueInto_cases p ops b r with ⟨h', -⟩ | ⟨k, hr, hk, -⟩
  · exact h'
  · simp [hr, hk] at h

/-! ## Address generation -/

theorem State.generateAddress_skip {s : State} {k : Nat} (h : (s.entry ⟨.loadB, k⟩).wantsAddress = false)
    (imm : Word) (st : Bool) : s.generateAddress k imm st = s := by
  simp [State.generateAddress, h]

theorem State.generateAddress_load {s : State} {k : Nat} (h : (s.entry ⟨.loadB, k⟩).wantsAddress = true) (imm : Word) :
    s.generateAddress k imm false =
      s.setEntry ⟨.loadB, k⟩
        { s.entry ⟨.loadB, k⟩ with addr := (s.entry ⟨.loadB, k⟩).op1.value + imm, addrKnown := true } := by
  simp [State.generateAddress, h, effectiveAddress]

theorem State.generateAddress_store {s : State} {k : Nat} (h : (s.entry ⟨.loadB, k⟩).wantsAddress = true) (imm : Word) :
    s.generateAddress k imm true =
      (s.setEntry ⟨.loadB, k⟩
        { s.entry ⟨.loadB, k⟩ with addr := (s.entry ⟨.loadB, k⟩).op1.value + imm, addrKnown := true }).setSlot
          (s.entry ⟨.loadB, k⟩).tagD
          { s.slot (s.entry ⟨.loadB, k⟩).tagD with
            addr := (s.entry ⟨.loadB, k⟩).op1.value + imm, addrKnown := true } := by
  simp [State.generateAddress, h, effectiveAddress]

/-! ## Dispatch -/

/-- What `markExecuting` writes: the entry's `inExec` and the stage marker of its slot. -/
theorem State.markExecuting_eq (s : State) (ref : RsRef) :
    s.markExecuting ref =
      (s.setEntry ref { s.entry ref with inExec := true }).setSlot (s.entry ref).tagD
        { s.slot (s.entry ref).tagD with
          stage := .execute, ts := { (s.slot (s.entry ref).tagD).ts with execute := s.now } } := rfl

theorem State.dispatchTimed_none {s : State} {c : UnitClass} (h : s.freeLane c = none) (ref : RsRef) :
    s.dispatchTimed c ref = s := by simp [State.dispatchTimed, h]

theorem State.dispatchTimed_some {s : State} {c : UnitClass} {j : Nat} (h : s.freeLane c = some j) (ref : RsRef) :
    s.dispatchTimed c ref = (s.setLane c j ⟨true, ref, s.cfg.lat.get c, 0, false, false⟩).markExecuting ref := by
  simp [State.dispatchTimed, h]

theorem State.dispatchBypass_none {s : State} (h : s.freeByp = none) (ref : RsRef) (v : Word) :
    s.dispatchBypass ref v = s := by simp [State.dispatchBypass, h]

theorem State.dispatchBypass_some {s : State} {j : Nat} (h : s.freeByp = some j) (ref : RsRef) (v : Word) :
    s.dispatchBypass ref v = (s.setByp j ⟨true, ref, v, false⟩).markExecuting ref := by
  simp [State.dispatchBypass, h]

/-- A load that needs memory waits, or takes the lowest free lane (R133, R134). -/
theorem State.dispatchMemory_cases (s : State) (ref : RsRef) :
    (s.dispatchMemory ref = s ∧ (s.memBlock = true ∨ s.turn.memTimedIssued = true ∨ s.freeLane .memory = none)) ∨
    ∃ j, s.memBlock = false ∧ s.turn.memTimedIssued = false ∧ s.freeLane .memory = some j ∧
      s.dispatchMemory ref =
        { (s.setLane .memory j ⟨true, ref, s.cfg.lat.memory, 0, false, false⟩).markExecuting ref with
          turn := { s.turn with memTimedIssued := true } } := by
  unfold State.dispatchMemory
  cases hb : s.memBlock
  · cases ht : s.turn.memTimedIssued
    · cases hj : s.freeLane .memory with
      | none => exact .inl ⟨rfl, .inr (.inr rfl)⟩
      | some j =>
        refine .inr ⟨j, rfl, rfl, rfl, ?_⟩
        simp only [State.dispatchTimed_some hj]
        rfl
    · exact .inl ⟨rfl, .inr (.inl rfl)⟩
  · exact .inl ⟨rfl, .inl rfl⟩

/-- Dispatch of a load, by the outcome of the disambiguation check (R133). -/
theorem State.dispatchLoad_cases (s : State) (ref : RsRef) :
    ((s.entry ref).eligible = false ∧ s.dispatchLoad ref = s) ∨
    ((s.entry ref).eligible = true ∧
      ((s.disambiguate (s.entry ref) = .notLive ∧
          s.dispatchLoad ref = s.raise .disambigScan (s.entry ref).instr.pc 0) ∨
       (s.disambiguate (s.entry ref) = .conflict ∧ s.dispatchLoad ref = s) ∨
       (∃ v, s.disambiguate (s.entry ref) = .bypass v ∧ s.dispatchLoad ref = s.dispatchBypass ref v) ∨
       (s.disambiguate (s.entry ref) = .clear ∧ s.dispatchLoad ref = s.dispatchMemory ref))) := by
  cases he : (s.entry ref).eligible
  · exact .inl ⟨rfl, by simp [State.dispatchLoad, he]⟩
  · refine .inr ⟨rfl, ?_⟩
    cases hd : s.disambiguate (s.entry ref) <;> simp [State.dispatchLoad, he, hd]

/-! ## The disambiguation scan (R136) -/

@[simp] theorem scanStores_nil (a : Word) : scanStores a [] = .clear := rfl

theorem scanStores_transparent {a : Word} {x : RobSlot} {l : List RobSlot}
    (h : x.instr.opIsStore = false ∨ (x.addrKnown = true ∧ x.addr ≠ a)) : scanStores a (x :: l) = scanStores a l := by
  rcases h with h | ⟨hk, ha⟩
  · simp [scanStores, h]
  · by_cases hs : x.instr.opIsStore = true <;> simp [scanStores, hs, hk, ha]

theorem scanStores_unknown {a : Word} {x : RobSlot} {l : List RobSlot} (hs : x.instr.opIsStore = true)
    (hk : x.addrKnown = false) : scanStores a (x :: l) = .conflict := by
  simp [scanStores, hs, hk]

theorem scanStores_match {a : Word} {x : RobSlot} {l : List RobSlot} (hs : x.instr.opIsStore = true)
    (hk : x.addrKnown = true) (ha : x.addr = a) :
    scanStores a (x :: l) = if x.ready then .bypass x.value else .conflict := by
  simp [scanStores, hs, hk, ha]

/-! ## Countdown -/

theorem State.countDown_idle {s : State} {c : UnitClass} {j : Nat}
    (h : ((s.lane c j).busy && !(s.lane c j).done) = false) (k : RsEntry → State → State) : s.countDown c j k = s := by
  simp [State.countDown, h]

theorem State.countDown_more {s : State} {c : UnitClass} {j : Nat} (hb : (s.lane c j).busy = true)
    (hd : (s.lane c j).done = false) (ht : (s.lane c j).ttl - 1 ≠ 0) (k : RsEntry → State → State) :
    s.countDown c j k = s.setLane c j { s.lane c j with ttl := (s.lane c j).ttl - 1 } := by
  simp only [State.countDown, hb, hd, ht, Bool.not_false, Bool.and_self, if_true, if_false]

theorem State.countDown_last {s : State} {c : UnitClass} {j : Nat} (hb : (s.lane c j).busy = true)
    (hd : (s.lane c j).done = false) (ht : (s.lane c j).ttl - 1 = 0) (k : RsEntry → State → State) :
    s.countDown c j k = k (s.entry (s.lane c j).rs) (s.setLane c j { s.lane c j with ttl := 0 }) := by
  simp only [State.countDown, hb, hd, ht, Bool.not_false, Bool.and_self, if_true,
    State.entry_setLane]

/-- A busy lane is a lane of the class. -/
theorem State.lane_lt_of_busy {s : State} {c : UnitClass} {j : Nat} (h : (s.lane c j).busy = true) :
    j < (s.lanes.get c).length := by
  by_contra hn
  simp [State.lane, List.getElem?_eq_none (Nat.le_of_not_lt hn), Lane.empty] at h

@[simp] theorem State.laneAs_eq (s : State) (c : UnitClass) (j : Nat) (l : Lane) : s.laneAs c j l = s.setLane c j l := rfl

/-- The countdown of a lane that reaches zero runs what the instruction computes, on the lane's entry. -/
theorem State.countDown_finishing {s : State} {c : UnitClass} {j : Nat} (h : s.Finishing c j)
    (k : RsEntry → State → State) :
    s.countDown c j k = k (s.served c j) (s.setLane c j { s.lane c j with ttl := 0 }) :=
  State.countDown_last h.2.1 h.2.2.1 (by rw [h.2.2.2]) k

/-- The result put into a lane that has reached zero. -/
theorem State.finishLane_at_zero {s : State} {c : UnitClass} {j : Nat} (h : (s.lane c j).busy = true) (v : Word)
    (m : Bool) : (s.setLane c j { s.lane c j with ttl := 0 }).finishLane c j v m = s.laneDone c j v m := by
  simp only [State.finishLane, State.lane_setLane_same s c j _ (State.lane_lt_of_busy h), State.setLane_setLane]
  rfl

/-! ## Writeback -/

section writeResult

variable (s : State) (l : SlotRef) (b : Bool)

@[simp] theorem State.writeResult_cfg : (s.writeResult l b).cfg = s.cfg := by cases l <;> rfl
@[simp] theorem State.writeResult_prog : (s.writeResult l b).prog = s.prog := by cases l <;> rfl
@[simp] theorem State.writeResult_gpr : (s.writeResult l b).gpr = s.gpr := by cases l <;> rfl
@[simp] theorem State.writeResult_fpr : (s.writeResult l b).fpr = s.fpr := by cases l <;> rfl
@[simp] theorem State.writeResult_pc : (s.writeResult l b).pc = s.pc := by cases l <;> rfl
@[simp] theorem State.writeResult_memBlock : (s.writeResult l b).memBlock = s.memBlock := by cases l <;> rfl
@[simp] theorem State.writeResult_mem : (s.writeResult l b).mem = s.mem := by cases l <;> rfl
@[simp] theorem State.writeResult_cycle : (s.writeResult l b).cycle = s.cycle := by cases l <;> rfl
@[simp] theorem State.writeResult_committed : (s.writeResult l b).committed = s.committed := by cases l <;> rfl
@[simp] theorem State.writeResult_nextId : (s.writeResult l b).nextId = s.nextId := by cases l <;> rfl
@[simp] theorem State.writeResult_fault : (s.writeResult l b).fault = s.fault := by cases l <;> rfl
@[simp] theorem State.writeResult_faultPc : (s.writeResult l b).faultPc = s.faultPc := by cases l <;> rfl
@[simp] theorem State.writeResult_faultAddr : (s.writeResult l b).faultAddr = s.faultAddr := by cases l <;> rfl
@[simp] theorem State.writeResult_turn : (s.writeResult l b).turn = s.turn := by cases l <;> rfl

end writeResult

/-! ## Commit -/

/-- The stamp changes the head's stage marker and its time, and nothing a rule of the block reads. -/
theorem State.stampCommit_cases (s : State) :
    s.stampCommit = s ∨
    s.stampCommit = s.setSlot s.rob.head
      { s.headSlot with stage := .commit, ts := { s.headSlot.ts with commit := s.now } } := by
  by_cases h : s.headSlot.stage = .commit
  · exact .inl (by simp [State.stampCommit, h])
  · exact .inr (by simp [State.stampCommit, h])

/-- The stamp as one write of the head's slot, whether or not it was stamped before (R160). -/
theorem State.stampCommit_eq {s : State} (h : s.rob.head < s.rob.slots.length) :
    s.stampCommit = s.setSlot s.rob.head s.stampedHead := by
  by_cases hs : s.headSlot.stage = .commit
  · have hx : s.stampedHead = s.headSlot := by simp only [State.stampedHead, hs, if_true]; rw [← hs]
    have hg : s.headSlot = s.rob.slots[s.rob.head] := by simp [State.headSlot, State.slot, h]
    have hl : s.stampCommit = s := by simp only [State.stampCommit, hs, ne_eq, not_true_eq_false, if_false]
    rw [hl, hx, State.setSlot, hg, List.set_getElem_self]
  · simp only [State.stampCommit, hs, ne_eq, not_false_eq_true, if_true, State.stampedHead, if_false, State.now]

/-- The head after the stamp. -/
theorem State.headSlot_stampCommit {s : State} (h : s.rob.head < s.rob.slots.length) :
    s.stampCommit.headSlot = s.stampedHead := by
  rw [State.stampCommit_eq h]
  exact (State.slot_setSlot _ _ _ _).trans (if_pos ⟨rfl, h⟩)

theorem State.commitResult_stall {s : State} (h : s.headReady = false) (dst : Option RegName) :
    s.commitResult dst = s := by simp [State.commitResult, h]

theorem State.commitResult_ready {s : State} (h : s.headReady = true) (dst : Option RegName) :
    s.commitResult dst = (s.stampCommit.commitReg dst).popAndCount := by simp [State.commitResult, h]

theorem State.commitBranch_stall {s : State} (h : s.headReady = false) : s.commitBranch = s := by
  simp [State.commitBranch, h]

theorem State.commitStore_stall {s : State} (h : s.headReady = false) : s.commitStore = s := by
  simp [State.commitStore, h]

/-- A ready store that still counts down, or writes memory (R164). -/
theorem State.commitStore_ready {s : State} (h : s.headReady = true) :
    s.commitStore =
      if 0 < s.stampCommit.storeCountdown.headSlot.stctr.getD 0 then s.stampCommit.storeCountdown
      else s.stampCommit.storeCountdown.storeWrite := by
  simp [State.commitStore, h]

/-- The write of a store: the fault of the access, with the store still at the head, or the write and the pop. -/
theorem State.storeWrite_cases (s : State) :
    (∃ f, accessFault s.cfg s.headSlot.addr = some f ∧
      s.storeWrite = s.raise f s.headSlot.instr.pc s.headSlot.addr) ∨
    (accessFault s.cfg s.headSlot.addr = none ∧
      s.storeWrite =
        ({ s with mem := s.mem.writeWord s.headSlot.addr.toNat s.headSlot.value, memBlock := false } :
          State).popAndCount) := by
  cases hf : accessFault s.cfg s.headSlot.addr with
  | some f => exact .inl ⟨f, rfl, by simp [State.storeWrite, State.memWrite, hf]⟩
  | none => exact .inr ⟨rfl, by simp [State.storeWrite, State.memWrite, hf]⟩

/-! ## Squash -/

@[simp] theorem State.squash_rob (s : State) (w : Word) :
    (s.squash w).rob =
      { slots := s.rob.slots.map fun x => { x with live := false }
        head := s.rob.tail
        tail := s.rob.tail
        count := 0 } := by simp only [State.squash]
@[simp] theorem State.squash_rs (s : State) (w : Word) :
    (s.squash w).rs = s.rs.map fun l => l.map fun e => { e with busy := false, remove := false } := by
  simp only [State.squash]
@[simp] theorem State.squash_lanes (s : State) (w : Word) :
    (s.squash w).lanes = s.lanes.map fun l => l.map Lane.clear := by simp only [State.squash]
@[simp] theorem State.squash_byp (s : State) (w : Word) : (s.squash w).byp = s.byp.map BypSlot.clear := by
  simp only [State.squash]

@[simp] theorem RegBank.clearBusy_get (b : RegBank) (i : Reg) :
    b.clearBusy[i.val] = { b[i.val] with busy := false } := by
  simp [RegBank.clearBusy]

/-- A squash changes no register's value or tag and clears its busy bit (R170, R171). -/
theorem State.reg_squash (s : State) (w : Word) (r : RegName) :
    (s.squash w).reg r = { s.reg r with busy := false } := by
  cases r <;> simp [State.reg]

end Sys2Proof.Machine
end

