-- ==== Sys2Proof/Laws/Exec.lean ====
section
/-! SUPPORT. What the meaning of every instruction is in each phase, said once: a proof about all instructions in one
phase cites the lemma of that phase and splits no instruction. -/

namespace Sys2Proof.Machine

/-- C: the ROB head's turn (R160 to R164). -/
theorem exec_at_commit {s : State} (h : s.turn.phase = .commit) (i : Instr) :
    exec i s = .next
      (if i = .eop then s else if isStore i then s.commitStore else if isBranch i then s.commitBranch
        else s.commitResult (dest? i)) := by
  cases i <;> simp [exec, execLw, execSw, execAdd, execAddi, execSub, execSubi, execXor, execXori, execOr, execOri,
    execAnd, execAndi, execMult, execDiv, execBeqz, execBnez, execBltz, execBgtz, execBlez, execBgez, execJump, execEop,
    execLws, execSws, execAdds, execSubs, execMults, execDivs, aluWay, loadWay, storeWay, branchWay, eopWay, h, isStore,
    isBranch, dest?, Operands.rrr, Operands.rri, Operands.rrrFp]

/-- W: the turn of the instruction a done slot serves (R150). -/
theorem exec_at_writeback {s : State} {l : SlotRef} (h : s.turn.phase = .writeback l) (i : Instr) :
    exec i s = .next (if i = .eop then s else s.writeResult l (isBranch i)) := by
  cases i <;> simp [exec, execLw, execSw, execAdd, execAddi, execSub, execSubi, execXor, execXori, execOr, execOri,
    execAnd, execAndi, execMult, execDiv, execBeqz, execBnez, execBltz, execBgtz, execBlez, execBgez, execJump, execEop,
    execLws, execSws, execAdds, execSubs, execMults, execDivs, aluWay, loadWay, storeWay, branchWay, eopWay, h, isBranch]

/-- X1: the turn of a `LOAD_B` entry (R122). -/
theorem exec_at_address {s : State} {k : Nat} (h : s.turn.phase = .address k) (i : Instr) :
    exec i s = .next (if isLoad i || isStore i then s.generateAddress k (immOf i) (isStore i) else s) := by
  cases i <;> simp [exec, execLw, execSw, execAdd, execAddi, execSub, execSubi, execXor, execXori, execOr, execOri,
    execAnd, execAndi, execMult, execDiv, execBeqz, execBnez, execBltz, execBgtz, execBlez, execBgez, execJump, execEop,
    execLws, execSws, execAdds, execSubs, execMults, execDivs, aluWay, loadWay, storeWay, branchWay, eopWay, h, isLoad,
    isStore, immOf]

/-- X2: the turn of an entry of the class (R130). -/
theorem exec_at_dispatch {s : State} {e : RsRef} (h : s.turn.phase = .dispatch e) (i : Instr) :
    exec i s = .next
      (match classOf? i with
        | none => s
        | some c =>
          if isLoad i then s.dispatchLoad e else if isStore i then s.dispatchStore e else s.dispatchAlu c e) := by
  cases i <;> simp [exec, execLw, execSw, execAdd, execAddi, execSub, execSubi, execXor, execXori, execOr, execOri,
    execAnd, execAndi, execMult, execDiv, execBeqz, execBnez, execBltz, execBgtz, execBlez, execBgez, execJump, execEop,
    execLws, execSws, execAdds, execSubs, execMults, execDivs, aluWay, loadWay, storeWay, branchWay, eopWay, h, isLoad,
    isStore, classOf?]

/-- What an instruction does when its lane's countdown ends (R140). -/
def computes (i : Instr) (c : UnitClass) (j : Nat) (e : RsEntry) (s : State) : State :=
  if isLoad i then s.finishLoad c j e
  else if isBranch i then s.finishLane c j (branchTarget e.instr.pc (immOf i)) (branchTaken i e.op1.value)
  else if isStore i = true ∨ i = .eop then s.raise .unknownOpcode e.instr.pc 0
  else
    match i with
    | .div _ _ _ => s.finishAlu c j e.instr.pc (divide s.cfg.divSigned e.op1.value e.op2.value)
    | _ => s.finishLane c j ((aluWord s.cfg i e.op1.value e.op2.value).getD 0) false

/-! The flag computations of Flags.lean are the conditions of the sequential machine. -/

@[simp] theorem branchTaken_jump (imm a : Word) : branchTaken (.jump imm) a = takenAlways a := rfl
@[simp] theorem branchTaken_beqz (rs : Reg) (imm a : Word) : branchTaken (.beqz rs imm) a = takenEqz a := rfl
@[simp] theorem branchTaken_bnez (rs : Reg) (imm a : Word) : branchTaken (.bnez rs imm) a = takenNez a := rfl
@[simp] theorem branchTaken_bltz (rs : Reg) (imm a : Word) : branchTaken (.bltz rs imm) a = takenLtz a := rfl
@[simp] theorem branchTaken_bgtz (rs : Reg) (imm a : Word) : branchTaken (.bgtz rs imm) a = takenGtz a := rfl
@[simp] theorem branchTaken_blez (rs : Reg) (imm a : Word) : branchTaken (.blez rs imm) a = takenLez a := rfl
@[simp] theorem branchTaken_bgez (rs : Reg) (imm a : Word) : branchTaken (.bgez rs imm) a = takenGez a := rfl

theorem multiply_eq (a b : Word) : multiply a b = a * b := rfl

/-- X3: the turn of the instruction in a counting lane (R140). -/
theorem exec_at_complete {s : State} {c : UnitClass} {j : Nat} (h : s.turn.phase = .complete c j) (i : Instr) :
    exec i s = .next (s.countDown c j (computes i c j)) := by
  have hk : ∀ k k' : RsEntry → State → State, (∀ e t, t.cfg = s.cfg → k e t = k' e t) →
      s.countDown c j k = s.countDown c j k' := by
    intro k k' hkk
    unfold State.countDown
    simp only [hkk _ _ (State.setLane_cfg ..)]
  cases i <;>
    simp only [exec, execLw, execSw, execAdd, execAddi, execSub, execSubi, execXor, execXori, execOr, execOri, execAnd,
      execAndi, execMult, execDiv, execBeqz, execBnez, execBltz, execBgtz, execBlez, execBgez, execJump, execEop,
      execLws, execSws, execAdds, execSubs, execMults, execDivs, aluWay, loadWay, storeWay, branchWay, eopWay, h] <;>
    refine congrArg _ (hk _ _ fun e t ht => ?_) <;>
    simp [computes, isLoad, isBranch, isStore, aluWord, State.finishAlu, multiply_eq, immOf, ht]

/-- I: the turn of the fetched instruction (R103 to R113). -/
theorem exec_at_issue {s : State} {r : Record} (h : s.turn.phase = .issue r) (i : Instr) :
    exec i s = .next
      (match classOf? i with
        | none => s.stopIssue
        | some c => s.issueInto c.pool ⟨dest? i, source1? i, source2? i⟩ (isBranch i) r) := by
  cases i <;> simp [exec, execLw, execSw, execAdd, execAddi, execSub, execSubi, execXor, execXori, execOr, execOri,
    execAnd, execAndi, execMult, execDiv, execBeqz, execBnez, execBltz, execBgtz, execBlez, execBgez, execJump, execEop,
    execLws, execSws, execAdds, execSubs, execMults, execDivs, aluWay, loadWay, storeWay, branchWay, eopWay, h, isBranch,
    dest?, source1?, source2?, classOf?, Operands.rrr, Operands.rri, Operands.rrrFp, Operands.load, Operands.store,
    Operands.branch, Operands.jump, UnitClass.pool]

/-- No instruction acts in F. -/
theorem exec_at_finalize {s : State} (h : s.turn.phase = .finalize) (i : Instr) : exec i s = .next s := by
  cases i <;> simp [exec, execLw, execSw, execAdd, execAddi, execSub, execSubi, execXor, execXori, execOr, execOri,
    execAnd, execAndi, execMult, execDiv, execBeqz, execBnez, execBltz, execBgtz, execBlez, execBgez, execJump, execEop,
    execLws, execSws, execAdds, execSubs, execMults, execDivs, aluWay, loadWay, storeWay, branchWay, eopWay, h]

/-- Every instruction answers a next state, in every phase and state: the spec's faults are state (R301). -/
theorem exec_next (i : Instr) (s : State) : ∃ t, exec i s = .next t := by
  cases h : s.turn.phase with
  | commit => exact ⟨_, exec_at_commit h i⟩
  | writeback l => exact ⟨_, exec_at_writeback h i⟩
  | address k => exact ⟨_, exec_at_address h i⟩
  | dispatch e => exact ⟨_, exec_at_dispatch h i⟩
  | complete c j => exact ⟨_, exec_at_complete h i⟩
  | issue r => exact ⟨_, exec_at_issue h i⟩
  | finalize => exact ⟨_, exec_at_finalize h i⟩

theorem visit_next (p : Phase) (r : Record) (s : State) : ∃ t, visit p r s = .next t := by
  unfold visit
  split
  · exact exec_next _ _
  · exact ⟨_, rfl⟩

/-- A visit is the meaning of the record's instruction in that phase, or the fault of an unknown opcode. -/
theorem visit_eq {p : Phase} {r : Record} {s : State} {i : Instr} (h : r.instr? = some i) :
    visit p r s = exec i (s.atPhase p) := by
  simp [visit, h]

end Sys2Proof.Machine
end

