-- ==== Sys2Proof/Laws/PerInstr.lean ====
section
/-! SUPPORT. Statements made of every instruction, one lemma per constructor. -/

namespace Sys2Proof.Laws

open Sys2Proof.Machine

/-- The row of the opcode map an instruction's record names says what the constructor says: class, and the three
flags (R86, R87). -/
def TableRow.Statement (i : Instr) : Prop :=
  ∃ row, opRow? (i.record 0).op = some row ∧ row.cls = classOf? i ∧ row.isLoad = isLoad i ∧
    row.isStore = isStore i ∧ row.isBranch = isBranch i

theorem TableRow.lw (rt rs : Reg) (imm : Word) : TableRow.Statement (.lw rt rs imm) := ⟨_, rfl, rfl, rfl, rfl, rfl⟩
theorem TableRow.sw (rt rs : Reg) (imm : Word) : TableRow.Statement (.sw rt rs imm) := ⟨_, rfl, rfl, rfl, rfl, rfl⟩
theorem TableRow.add (rd rs rt : Reg) : TableRow.Statement (.add rd rs rt) := ⟨_, rfl, rfl, rfl, rfl, rfl⟩
theorem TableRow.addi (rd rs : Reg) (imm : Word) : TableRow.Statement (.addi rd rs imm) := ⟨_, rfl, rfl, rfl, rfl, rfl⟩
theorem TableRow.sub (rd rs rt : Reg) : TableRow.Statement (.sub rd rs rt) := ⟨_, rfl, rfl, rfl, rfl, rfl⟩
theorem TableRow.subi (rd rs : Reg) (imm : Word) : TableRow.Statement (.subi rd rs imm) := ⟨_, rfl, rfl, rfl, rfl, rfl⟩
theorem TableRow.xor (rd rs rt : Reg) : TableRow.Statement (.xor rd rs rt) := ⟨_, rfl, rfl, rfl, rfl, rfl⟩
theorem TableRow.xori (rd rs : Reg) (imm : Word) : TableRow.Statement (.xori rd rs imm) := ⟨_, rfl, rfl, rfl, rfl, rfl⟩
theorem TableRow.or (rd rs rt : Reg) : TableRow.Statement (.or rd rs rt) := ⟨_, rfl, rfl, rfl, rfl, rfl⟩
theorem TableRow.ori (rd rs : Reg) (imm : Word) : TableRow.Statement (.ori rd rs imm) := ⟨_, rfl, rfl, rfl, rfl, rfl⟩
theorem TableRow.and (rd rs rt : Reg) : TableRow.Statement (.and rd rs rt) := ⟨_, rfl, rfl, rfl, rfl, rfl⟩
theorem TableRow.andi (rd rs : Reg) (imm : Word) : TableRow.Statement (.andi rd rs imm) := ⟨_, rfl, rfl, rfl, rfl, rfl⟩
theorem TableRow.mult (rd rs rt : Reg) : TableRow.Statement (.mult rd rs rt) := ⟨_, rfl, rfl, rfl, rfl, rfl⟩
theorem TableRow.div (rd rs rt : Reg) : TableRow.Statement (.div rd rs rt) := ⟨_, rfl, rfl, rfl, rfl, rfl⟩
theorem TableRow.beqz (rs : Reg) (imm : Word) : TableRow.Statement (.beqz rs imm) := ⟨_, rfl, rfl, rfl, rfl, rfl⟩
theorem TableRow.bnez (rs : Reg) (imm : Word) : TableRow.Statement (.bnez rs imm) := ⟨_, rfl, rfl, rfl, rfl, rfl⟩
theorem TableRow.bltz (rs : Reg) (imm : Word) : TableRow.Statement (.bltz rs imm) := ⟨_, rfl, rfl, rfl, rfl, rfl⟩
theorem TableRow.bgtz (rs : Reg) (imm : Word) : TableRow.Statement (.bgtz rs imm) := ⟨_, rfl, rfl, rfl, rfl, rfl⟩
theorem TableRow.blez (rs : Reg) (imm : Word) : TableRow.Statement (.blez rs imm) := ⟨_, rfl, rfl, rfl, rfl, rfl⟩
theorem TableRow.bgez (rs : Reg) (imm : Word) : TableRow.Statement (.bgez rs imm) := ⟨_, rfl, rfl, rfl, rfl, rfl⟩
theorem TableRow.jump (imm : Word) : TableRow.Statement (.jump imm) := ⟨_, rfl, rfl, rfl, rfl, rfl⟩
theorem TableRow.eop : TableRow.Statement (.eop) := ⟨_, rfl, rfl, rfl, rfl, rfl⟩
theorem TableRow.lws (ft rs : Reg) (imm : Word) : TableRow.Statement (.lws ft rs imm) := ⟨_, rfl, rfl, rfl, rfl, rfl⟩
theorem TableRow.sws (ft rs : Reg) (imm : Word) : TableRow.Statement (.sws ft rs imm) := ⟨_, rfl, rfl, rfl, rfl, rfl⟩
theorem TableRow.adds (fd fs ft : Reg) : TableRow.Statement (.adds fd fs ft) := ⟨_, rfl, rfl, rfl, rfl, rfl⟩
theorem TableRow.subs (fd fs ft : Reg) : TableRow.Statement (.subs fd fs ft) := ⟨_, rfl, rfl, rfl, rfl, rfl⟩
theorem TableRow.mults (fd fs ft : Reg) : TableRow.Statement (.mults fd fs ft) := ⟨_, rfl, rfl, rfl, rfl, rfl⟩
theorem TableRow.divs (fd fs ft : Reg) : TableRow.Statement (.divs fd fs ft) := ⟨_, rfl, rfl, rfl, rfl, rfl⟩

end Sys2Proof.Laws
end

