-- ==== Sys2Proof/Tests/Slice0.lean ====
section
/-! SUPPORT. Tests: the checks of the encoding, each refusing an ill-formed term; every constructor's decoding from a
word laid out by the bit table of 30_encoding.md R82; small single-action tests with the values of 95_test_vectors.md;
and a witness for the hypotheses of every statement that has some. -/

open Sys2Proof Sys2Proof.Machine

namespace Sys2Proof.Tests

/-! ## Small states -/

/-- The next state of a result, if there is one. -/
def next? : Result → Option State
  | .next s => some s
  | _ => none

/-- Reset with the turn in phase `p`. -/
def at' (p : Phase) (s : State) : State := { s with turn := { s.turn with phase := p } }

/-- An entry in execution, with both operands, its address and the tag 0. -/
def entryOf (i : Instr) (pc a b : Word) : RsEntry :=
  { RsEntry.empty with busy := true, instr := i.record pc, op1 := ⟨true, a, 0⟩, op2 := ⟨true, b, 0⟩, addr := a,
                       addrKnown := true, inExec := true }

/-- Lane 0 of class `c` one cycle from the end with instruction `i`. -/
def finishing (c : UnitClass) (i : Instr) (pc a b : Word) : State :=
  at' (.complete c 0)
    ((State.reset.setEntry ⟨c.pool, 0⟩ (entryOf i pc a b)).setLane c 0 ⟨true, ⟨c.pool, 0⟩, 1, 0, false, false⟩)

/-- The result and the branch outcome lane 0 of class `c` has after the turn of `i`. -/
def laneResult (c : UnitClass) (i : Instr) (pc a b : Word) : Option (Word × Bool) :=
  (next? (exec i (finishing c i pc a b))).map fun t => ((t.lane c 0).result, (t.lane c 0).misPred)

/-- The fault registers after a result. -/
def faultRegs (r : Result) : Option (FaultCode × Word × Word) :=
  (next? r).map fun t => (t.fault, t.faultPc, t.faultAddr)

/-- One ready instruction at the ROB head, at tag 0. -/
def headed (i : Instr) (x : RobSlot) : State :=
  { State.reset with
    rob := { slots := State.reset.rob.slots.set 0 { x with live := true, instr := i.record 0 }
             head := 0, tail := 1, count := 1 } }

/-- A ready slot holding `v` for address `a`. -/
def readySlot (v a : Word) : RobSlot := { RobSlot.empty with ready := true, value := v, addr := a, addrKnown := true }

/-- A program loaded at address 0. -/
def loaded (l : List (BitVec 96)) : State := { State.reset with prog := l }

/-- The program `ADDI R1,R0,5; EOP`. -/
def addiProgram : State := loaded [0x000000000000000500040823, 0x000000040000000000000015]

set_option maxRecDepth 20000

/-! ## Well-formedness: a configuration that breaks one constraint of R8 each -/

theorem test_wf_accepts_reference : Config.ref.wf = true := by decide
theorem test_wf_refuses_issue_width : Config.wf { Config.ref with issueWidth := 0 } = false := by decide
theorem test_wf_refuses_rob_size : Config.wf { Config.ref with robSize := 0 } = false := by decide
theorem test_wf_refuses_int_rs : Config.wf { Config.ref with rsSize := ⟨0, 2, 2, 4⟩ } = false := by decide
theorem test_wf_refuses_add_rs : Config.wf { Config.ref with rsSize := ⟨4, 0, 2, 4⟩ } = false := by decide
theorem test_wf_refuses_mult_rs : Config.wf { Config.ref with rsSize := ⟨4, 2, 0, 4⟩ } = false := by decide
theorem test_wf_refuses_load_b : Config.wf { Config.ref with rsSize := ⟨4, 2, 2, 0⟩ } = false := by decide
theorem test_wf_refuses_lanes : Config.wf { Config.ref with lanes := ⟨2, 1, 1, 0, 1⟩ } = false := by decide
theorem test_wf_refuses_latency : Config.wf { Config.ref with lat := ⟨1, 2, 4, 8, 0⟩ } = false := by decide
theorem test_wf_refuses_mem_multiple : Config.wf { Config.ref with memSize := 254 } = false := by decide
theorem test_wf_refuses_mem_zero : Config.wf { Config.ref with memSize := 0 } = false := by decide
theorem test_wf_refuses_mem_large : Config.wf { Config.ref with memSize := 2 ^ 32 + 4 } = false := by decide
theorem test_wf_refuses_base : Config.wf { Config.ref with base := 2 } = false := by decide
theorem test_wf_accepts_largest_memory : Config.wf { Config.ref with memSize := 2 ^ 32 } = true := by decide
theorem test_wf_instr : Instr.wf .eop = true ∧ Instr.wf (.adds 31 0 31) = true := by decide

/-! ## The record check: one ill-formed record each (R89; the words of 95_test_vectors.md section 2) -/

theorem test_check_opcode_28 : decode 0x0000001C 0 = .error .unknownOpcode := by rfl
theorem test_check_opcode_31 : decode 0x0000001F 0 = .error .unknownOpcode := by rfl
theorem test_check_reserved_bit : decode 0x20000015 0 = .error .illegalRecord := by rfl
theorem test_check_float_slot : decode 0x03141862 0 = .error .illegalRecord := by rfl
theorem test_check_missing_source : decode 0x00000823 0 = .error .illegalRecord := by rfl
theorem test_check_missing_flag : decode 0x00040820 0 = .error .illegalRecord := by rfl
theorem test_check_wrong_pc : decode 0x000000040000000000040823 0 = .error .illegalRecord := by rfl
theorem test_check_integer_slot : decode 0x03141C78 0 = .error .illegalRecord := by rfl
theorem test_check_extra_slot : decode 0x02140823 0 = .error .illegalRecord := by rfl
theorem test_check_store_flag : decode 0x020C2001 0 = .error .illegalRecord := by rfl
theorem test_check_branch_flag : decode 0x00000014 0 = .error .illegalRecord := by rfl
theorem test_check_opcode_first : decode 0xE000001C 4 = .error .unknownOpcode := by rfl
/-- The ignored bits of an invalid slot may hold anything (R91). -/
theorem test_check_ignored_bits : decode 0x1003F7F4 0 = .ok (.jump 0) := by rfl

/-! ## Decoding: one word of every opcode, laid out by the bit table of R82 -/

theorem test_decode_lw : decode 0x000000000000000804042860 0 = .ok (.lw 3 2 8) := by rfl
theorem test_decode_sw : decode 0x00000004000000080AFC2001 4 = .ok (.sw 31 2 8) := by rfl
theorem test_decode_add : decode 0x000000080000000002141862 8 = .ok (.add 3 1 2) := by rfl
theorem test_decode_addi : decode 0x0000000CFFFFFFFF00040823 12 = .ok (.addi 1 0 0xFFFFFFFF) := by rfl
theorem test_decode_sub : decode 0x000000100000000002840BE4 16 = .ok (.sub 31 0 16) := by rfl
theorem test_decode_subi : decode 0x000000140000000300045885 20 = .ok (.subi 4 5 3) := by rfl
theorem test_decode_xor : decode 0x000000180000000002242826 24 = .ok (.xor 1 2 4) := by rfl
theorem test_decode_xori : decode 0x0000001C8000000000050907 28 = .ok (.xori 8 16 0x80000000) := by rfl
theorem test_decode_or : decode 0x0000002000000000024C88E8 32 = .ok (.or 7 8 9) := by rfl
theorem test_decode_ori : decode 0x00000024000000110004B949 36 = .ok (.ori 10 11 17) := by rfl
theorem test_decode_and : decode 0x00000028000000000274D98A 40 = .ok (.and 12 13 14) := by rfl
theorem test_decode_andi : decode 0x0000002C000000FF000519EB 44 = .ok (.andi 15 17 255) := by rfl
theorem test_decode_mult : decode 0x0000003000000000020C184C 48 = .ok (.mult 2 1 1) := by rfl
theorem test_decode_div : decode 0x00000034000000000204184D 52 = .ok (.div 2 1 0) := by rfl
theorem test_decode_beqz : decode 0x00000038000000041004000E 56 = .ok (.beqz 0 4) := by rfl
theorem test_decode_bnez : decode 0x0000003C000000081004100F 60 = .ok (.bnez 1 8) := by rfl
theorem test_decode_bltz : decode 0x00000040FFFFFFF810052010 64 = .ok (.bltz 18 0xFFFFFFF8) := by rfl
theorem test_decode_bgtz : decode 0x000000440000000C10053011 68 = .ok (.bgtz 19 12) := by rfl
theorem test_decode_blez : decode 0x000000480000001010054012 72 = .ok (.blez 20 16) := by rfl
theorem test_decode_bgez : decode 0x0000004C000000001005F013 76 = .ok (.bgez 31 0) := by rfl
theorem test_decode_jump : decode 0x000000500000000410000014 80 = .ok (.jump 4) := by rfl
theorem test_decode_eop : decode 0x000000540000000000000015 84 = .ok .eop := by rfl
theorem test_decode_lws : decode 0x000000580000000004040C36 88 = .ok (.lws 1 0 0) := by rfl
theorem test_decode_sws : decode 0x0000005C000000080B1C0017 92 = .ok (.sws 3 0 8) := by rfl
theorem test_decode_adds : decode 0x000000600000000003161C78 96 = .ok (.adds 3 1 2) := by rfl
theorem test_decode_subs : decode 0x000000640000000003EFEFF9 100 = .ok (.subs 31 30 29) := by rfl
theorem test_decode_mults : decode 0x000000680000000003365C9A 104 = .ok (.mults 4 5 6) := by rfl
theorem test_decode_divs : decode 0x0000006C00000000034E8CFB 108 = .ok (.divs 7 8 9) := by rfl
theorem test_decodeTableWord : decodeTableWord 32 0x00040823 = some (.addi 1 0 0) ∧ decodeTableWord 32 0x1C = none ∧
    decodeTableWord 96 0x000000080000000002141862 = some (.add 3 1 2) := by decide

/-! ## Results (the tables of 95_test_vectors.md sections 3, 4 and 6) -/

theorem test_add : laneResult .integer (.add 3 1 2) 0 0xFFFFFFFF 0x1 = some (0x0, false) := by decide
theorem test_add_sign : laneResult .integer (.add 3 1 2) 0 0x7FFFFFFF 0x1 = some (0x80000000, false) := by decide
theorem test_addi : laneResult .integer (.addi 3 1 0xFFFFFFFF) 0 0x5 0x0 = some (0x4, false) := by decide
theorem test_sub : laneResult .integer (.sub 3 1 2) 0 0x3 0x5 = some (0xFFFFFFFE, false) := by decide
theorem test_subi : laneResult .integer (.subi 3 1 5) 0 0x3 0x0 = some (0xFFFFFFFE, false) := by decide
theorem test_xor : laneResult .integer (.xor 3 1 2) 0 0xF0F0F0F 0xFF00FF = some (0xFF00FF0, false) := by decide
theorem test_xori : laneResult .integer (.xori 3 1 0xFFFF0000) 0 0x12345678 0x0 = some (0xEDCB5678, false) := by decide
theorem test_or : laneResult .integer (.or 3 1 2) 0 0xF0 0xF = some (0xFF, false) := by decide
theorem test_ori : laneResult .integer (.ori 3 1 1) 0 0x80000000 0x0 = some (0x80000001, false) := by decide
theorem test_and : laneResult .integer (.and 3 1 2) 0 0xFF00FF00 0xFF00FF0 = some (0xF000F00, false) := by decide
theorem test_andi : laneResult .integer (.andi 3 1 255) 0 0x12345678 0x0 = some (0x78, false) := by decide
theorem test_mult : laneResult .multiplier (.mult 3 1 2) 0 0x7FFFFFFF 0x2 = some (0xFFFFFFFE, false) := by decide
theorem test_mult_negatives : laneResult .multiplier (.mult 3 1 2) 0 0xFFFFFFFF 0xFFFFFFFF = some (0x1, false) := by decide
theorem test_div : laneResult .divider (.div 3 1 2) 0 0xFFFFFFF9 0x2 = some (0xFFFFFFFD, false) := by decide
theorem test_div_by_negative : laneResult .divider (.div 3 1 2) 0 0x7 0xFFFFFFFE = some (0xFFFFFFFD, false) := by decide
theorem test_adds_tie : laneResult .adder (.adds 3 1 2) 0 0x3F800000 0x33800000 = some (0x3F800000, false) := by decide
theorem test_adds_overflow : laneResult .adder (.adds 3 1 2) 0 0x7F7FFFFF 0x7F7FFFFF = some (0x7F800000, false) := by decide
theorem test_subs_subnormal : laneResult .adder (.subs 3 1 2) 0 0x800000 0x1 = some (0x7FFFFF, false) := by decide
theorem test_subs_nan : laneResult .adder (.subs 3 1 2) 0 0x7F800000 0x7F800000 = some (0x7FC00000, false) := by decide
theorem test_mults : laneResult .multiplier (.mults 3 1 2) 0 0x3FC00000 0xC0000000 = some (0xC0400000, false) := by decide
theorem test_mults_underflow_tie : laneResult .multiplier (.mults 3 1 2) 0 0x1 0x3F000000 = some (0x0, false) := by decide
theorem test_divs_third : laneResult .divider (.divs 3 1 2) 0 0x3F800000 0x40400000 = some (0x3EAAAAAB, false) := by decide
theorem test_divs_by_zero : laneResult .divider (.divs 3 1 2) 0 0x3F800000 0x80000000 = some (0xFF800000, false) := by decide
theorem test_div_unsigned : divide false 0xFFFFFFF9 2 = .ok 0x7FFFFFFC ∧
    divide false 0x80000000 0xFFFFFFFF = .ok 0 := by decide
theorem test_div_by_zero : faultRegs (exec (.div 2 1 0) (finishing .divider (.div 2 1 0) 4 5 0)) =
    some (.divFault, 4, 0) := by decide
theorem test_div_overflow : faultRegs (exec (.div 2 1 3) (finishing .divider (.div 2 1 3) 8 0x80000000 0xFFFFFFFF)) =
    some (.divFault, 8, 0) := by decide

theorem test_beqz : laneResult .integer (.beqz 1 8) 8 0x0 0 = some (0x14, true) := by decide
theorem test_beqz_not : laneResult .integer (.beqz 1 8) 8 0x80000000 0 = some (0x14, false) := by decide
theorem test_bnez : laneResult .integer (.bnez 1 0xFFFFFFF0) 16 0x3 0 = some (0x4, true) := by decide
theorem test_bnez_not : laneResult .integer (.bnez 1 8) 0 0x0 0 = some (0xC, false) := by decide
theorem test_bltz : laneResult .integer (.bltz 1 4) 0 0xFFFFFFFF 0 = some (0x8, true) := by decide
theorem test_bltz_not : laneResult .integer (.bltz 1 4) 0 0x7FFFFFFF 0 = some (0x8, false) := by decide
theorem test_bgtz : laneResult .integer (.bgtz 1 0) 4 0x5 0 = some (0x8, true) := by decide
theorem test_bgtz_not : laneResult .integer (.bgtz 1 0) 4 0x80000000 0 = some (0x8, false) := by decide
theorem test_blez : laneResult .integer (.blez 1 8) 0 0x80000000 0 = some (0xC, true) := by decide
theorem test_blez_not : laneResult .integer (.blez 1 8) 0 0x1 0 = some (0xC, false) := by decide
theorem test_bgez : laneResult .integer (.bgez 1 8) 0 0x0 0 = some (0xC, true) := by decide
theorem test_bgez_not : laneResult .integer (.bgez 1 8) 0 0xFFFFFFFE 0 = some (0xC, false) := by decide
theorem test_jump : laneResult .integer (.jump 0xFFFFFFF0) 12 0x0 0 = some (0x0, true) := by decide
theorem test_jump_wraps : laneResult .integer (.jump 0xFFFFFFF8) 0 0x0 0 = some (0xFFFFFFFC, true) := by decide

/-! ## Memory (95_test_vectors.md section 5) -/

/-- A lane load of `i` at address `a`, with the word 0xDEADBEEF at 252. -/
def loading (i : Instr) (a : Word) : State :=
  { finishing .memory i 0 a 0 with mem := [(252, 0xEF), (253, 0xBE), (254, 0xAD), (255, 0xDE)] }

theorem test_lw : ((next? (exec (.lw 1 0 252) (loading (.lw 1 0 252) 252))).map fun t =>
    ((t.lane .memory 0).result, t.turn.memDone)) = some (0xDEADBEEF, 1) := by decide
theorem test_lw_out_of_range : faultRegs (exec (.lw 1 0 0xFFFFFFFC) (loading (.lw 1 0 0xFFFFFFFC) 0xFFFFFFFC)) =
    some (.memOutOfRange, 0, 0xFFFFFFFC) := by decide
theorem test_lws_misaligned : faultRegs (exec (.lws 1 0 2) (loading (.lws 1 0 2) 2)) = some (.memMisaligned, 0, 2) := by
  decide
theorem test_lws : ((next? (exec (.lws 1 0 252) (loading (.lws 1 0 252) 252))).map fun t =>
    (t.lane .memory 0).result) = some 0xDEADBEEF := by decide

/-- A store in its last commit cycle. -/
def storing (i : Instr) (v a : Word) : State := headed i { readySlot v a with stctr := some 1 }

theorem test_sw_bytes : ((next? (exec (.sw 1 0 252) (storing (.sw 1 0 252) 0x11223344 252))).map fun t =>
    (t.mem, t.memBlock, t.committed, t.rob.count)) =
    some ([(252, 0x44), (253, 0x33), (254, 0x22), (255, 0x11)], false, 1, 0) := by decide
theorem test_sw_out_of_range : faultRegs (exec (.sw 1 0 256) (storing (.sw 1 0 256) 0 256)) =
    some (.memOutOfRange, 0, 256) := by decide
theorem test_sws_bytes : ((next? (exec (.sws 2 1 4) (storing (.sws 2 1 4) 0xC0490FDB 12))).map fun t => t.mem) =
    some [(12, 0xDB), (13, 0x0F), (14, 0x49), (15, 0xC0)] := by decide
theorem test_sws_misaligned : ((next? (exec (.sws 1 0 2) (storing (.sws 1 0 2) 7 2))).map fun t =>
    (t.fault, t.faultAddr, t.mem, t.rob.count)) = some (.memMisaligned, 2, [], 1) := by decide
theorem test_memory_canonical : Memory.writeWord [(4, 1), (8, 2)] 4 0 = [(8, 2)] ∧
    Memory.writeWord [(8, 2)] 4 0x01000000 = [(7, 1), (8, 2)] := by decide

/-- The slots of older stores, nearest first: address, known, ready, value (the table of section 5). -/
def older (l : List (Word × Bool × Bool × Word)) : List RobSlot :=
  l.map fun x => { readySlot x.2.2.2 x.1 with addrKnown := x.2.1, ready := x.2.2.1, instr := (Instr.sw 1 0 0).record 0 }

theorem test_scan_unknown_behind : scanStores 8 (older [(4, true, true, 1), (8, false, true, 2)]) = .conflict := by decide
theorem test_scan_nearest : scanStores 8 (older [(8, true, true, 1), (8, true, true, 2)]) = .bypass 1 ∧
    scanStores 8 (older [(4, true, true, 1), (8, true, true, 2)]) = .bypass 2 := by decide
theorem test_scan_not_ready : scanStores 8 (older [(8, true, false, 1)]) = .conflict ∧ scanStores 8 [] = .clear := by
  decide

/-! ## Single steps -/

/-- `ADDI R1,R0,5; EOP` (R256): the first step issues `ADDI` at tag 0 and stops on `EOP`. -/
theorem test_step_issues : ((next? (step addiProgram)).map fun t =>
    (t.pc, t.rob.count, (t.reg (.gpr 1)).busy, (t.entry ⟨.intRs, 0⟩).op1, t.cycle, t.fault)) =
    some (4, 1, true, ⟨true, 0, 0⟩, 1, .noFault) := by decide
/-- The negative vector `op = 28`: `UNKNOWN_OPCODE`, and `CYCLE` stays 0. -/
theorem test_step_unknown_opcode : ((next? (step (loaded [0x1C]))).map fun t => (t.fault, t.faultPc, t.cycle)) =
    some (.unknownOpcode, 0, 0) := by decide
theorem test_withFetchWord : ((next? (step (State.reset.withFetchWord 32 0x00040823))).map fun t =>
    (t.rob.count, (t.slot 0).instr.op, t.fault)) = some (1, 3, .noFault) := by decide
theorem test_withFetchWord_eop : ((next? (step (State.reset.withFetchWord 32 0x15))).map fun t => (t.pc, t.rob.count, t.fault)) =
    some (0, 0, .noFault) := by decide
/-- `R0` is written like any register (R23). -/
theorem test_commit_r0 : ((next? (exec (.addi 0 0 1) (headed (.addi 0 0 1) (readySlot 1 0)))).map fun t =>
    ((t.reg (.gpr 0)).value, t.rob.head, t.committed)) = some (1, 1, 1) := by decide
/-- A taken branch squashes to its target (R170). -/
theorem test_squash : ((next? (exec (.jump 4) (headed (.jump 4) { readySlot 8 0 with misPred := true }))).map fun t =>
    (t.pc, t.rob.head, t.rob.count, t.committed)) = some (8, 1, 0, 1) := by decide
/-- A store's first commit cycle sets `memBlock` and counts one down from `LAT[MEMORY] = 2` (R164). -/
theorem test_store_countdown : ((next? (exec (.sw 1 0 0) (headed (.sw 1 0 0) (readySlot 5 0)))).map fun t =>
    (t.memBlock, t.headSlot.stctr, t.rob.count)) = some (true, some 1, 1) := by decide

/-! ## Witnesses: the hypotheses of each statement hold together, clause by clause, at the edges of their ranges -/

/-- The word `w` is fetched. -/
abbrev Fetched (w : BitVec 96) : Prop :=
  (loaded [w]).rob.count ≠ (loaded [w]).cfg.robSize ∧ (loaded [w]).fetch = some w

/-- The reserved opcodes 28 and 31, a record with a reserved bit, and a good record. -/
theorem witness_RecordCheckAtIssue :
    Fetched 0x1C ∧ Fetched 0x1F ∧ Fetched 0x20000015 ∧ Fetched 0x00040823 ∧
    28 ≤ (unpack 0x1C).op.toNat ∧ 28 ≤ (unpack 0x1F).op.toNat ∧ (unpack 0x20000015).op.toNat < 28 ∧
    (unpack 0x20000015).reserved ≠ 0 ∧ RecordSays (unpack 0x00040823) (.addi 1 0 0) 0 := by decide

/-- The last record, the first address past it, a misaligned address, an address below `BASE`. -/
theorem witness_FetchInsideTheProgram :
    addiProgram.rob.count ≠ addiProgram.cfg.robSize ∧
    ({ addiProgram with pc := 4 } : State).fetch = some 0x000000040000000000000015 ∧
    addiProgram.prog.length ≤ ((8 : Word) - addiProgram.cfg.base).toNat / 4 ∧
    ((2 : Word) - addiProgram.cfg.base).toNat % 4 ≠ 0 ∧
    addiProgram.prog.length ≤ ((0xFFFFFFFC : Word) - addiProgram.cfg.base).toNat / 4 := by decide

/-- A full ROB. -/
def fullRob : State := { addiProgram with rob := { addiProgram.rob with count := 8 } }

theorem witness_FullRobStopsBeforeFetch : fullRob.rob.count = fullRob.cfg.robSize := by decide

/-- The first `n` entries of pool `p` busy. -/
def crowded (p : Pool) (n : Nat) (s : State) : State :=
  { s with rs := s.rs.set p (((s.rs.get p).take n).map (fun e => { e with busy := true }) ++ (s.rs.get p).drop n) }

/-- The turn of the record of `i` in the issue stage. -/
def issuing (i : Instr) : State := at' (.issue (i.record 0)) addiProgram

/-- The lowest free entry is the first, and the last, of a pool. -/
theorem witness_IssueAllocatesWhole :
    (issuing (.addi 1 0 5)).turn.phase = .issue ((Instr.addi 1 0 5).record 0) ∧ classOf? (.addi 1 0 5) = some .integer ∧
    (issuing (.addi 1 0 5)).rob.count ≠ (issuing (.addi 1 0 5)).cfg.robSize ∧
    ((issuing (.addi 1 0 5)).entry ⟨.intRs, 0⟩).busy = false ∧
    ((crowded .loadB 3 (issuing (.sw 1 0 0))).entry ⟨.loadB, 3⟩).busy = false ∧
    (∀ m < 3, ((crowded .loadB 3 (issuing (.sw 1 0 0))).entry ⟨.loadB, m⟩).busy = true) ∧
    3 < ((crowded .loadB 3 (issuing (.sw 1 0 0))).rs.get .loadB).length := by decide

/-- `R1` waits for tag 0, which has a result in `done` and none in `wait`. -/
theorem witness_RenameSnoopsTheRob :
    let wait := (headed (.addi 1 0 5) RobSlot.empty).setReg (.gpr 1) ⟨0, true, 0⟩
    let done := (headed (.addi 1 0 5) (readySlot 5 0)).setReg (.gpr 1) ⟨0, true, 0⟩
    (wait.reg (.gpr 2)).busy = false ∧ (wait.reg (.gpr 1)).busy = true ∧ (wait.slot 0).ready = false ∧
    (done.reg (.gpr 1)).busy = true ∧ (done.slot 0).ready = true := by decide

theorem witness_FullPoolStopsIssue :
    (crowded .addRs 2 (issuing (.adds 1 2 3))).turn.phase = .issue ((Instr.adds 1 2 3).record 0) ∧
    classOf? (.adds 1 2 3) = some .adder ∧
    ∀ e ∈ (crowded .addRs 2 (issuing (.adds 1 2 3))).rs.get .addRs, e.busy = true := by decide

theorem witness_EopStopsIssue : (issuing .eop).turn.phase = .issue (Instr.eop.record 0) := by decide

/-- An entry of `LOAD_B` whose base is ready and whose address is not known. -/
def addressing (i : Instr) (base : Word) : State :=
  at' (.address 3) (State.reset.setEntry ⟨.loadB, 3⟩
    { entryOf i 0 base 0 with addrKnown := false, inExec := false, op2 := ⟨false, 0, 5⟩ })

/-- A load, and a store whose data is not ready: both clauses, the second in reset. -/
theorem witness_AddressIsBasePlusImmediate :
    (∀ i ∈ [Instr.lw 1 2 4, .sws 1 2 4], (isLoad i = true ∨ isStore i = true) ∧
      (addressing i 8).turn.phase = .address 3 ∧ ((addressing i 8).entry ⟨.loadB, 3⟩).busy = true ∧
      ((addressing i 8).entry ⟨.loadB, 3⟩).inExec = false ∧ ((addressing i 8).entry ⟨.loadB, 3⟩).op1.ready = true ∧
      ((addressing i 8).entry ⟨.loadB, 3⟩).addrKnown = false) ∧
    ((at' (.address 0) State.reset).entry ⟨.loadB, 0⟩).busy = false := by decide

/-- An eligible entry of `i` with tag 0, in the turn of its dispatch. -/
def dispatching (p : Pool) (i : Instr) (s : State) : State :=
  at' (.dispatch ⟨p, 0⟩) (s.setEntry ⟨p, 0⟩ { entryOf i 0 8 0 with inExec := false })

/-- The first `n` lanes of class `c` busy. -/
def lanesBusy (c : UnitClass) (n : Nat) (s : State) : State :=
  { s with lanes := s.lanes.set c (((s.lanes.get c).take n).map (fun l => { l with busy := true, ttl := 1 }) ++
      (s.lanes.get c).drop n) }

/-- Lane 0 free, lane 1 the lowest free one, no lane free; and an entry that is not eligible. -/
theorem witness_TimedDispatchTakesLowestLane :
    let s := dispatching .intRs (.add 3 1 2) State.reset
    s.turn.phase = .dispatch ⟨.intRs, 0⟩ ∧ classOf? (.add 3 1 2) = some .integer ∧ UnitClass.integer ≠ .memory ∧
    (s.entry ⟨.intRs, 0⟩).eligible = true ∧ (s.lane .integer 0).busy = false ∧
    ((lanesBusy .integer 1 s).lane .integer 0).busy = true ∧ ((lanesBusy .integer 1 s).lane .integer 1).busy = false ∧
    (∀ l ∈ (lanesBusy .integer 2 s).lanes.integer, l.busy = true) ∧
    (State.reset.entry ⟨.intRs, 0⟩).eligible = false := by decide

theorem witness_StoreDispatchTakesBypassSlot :
    let s := dispatching .loadB (.sw 1 2 0) State.reset
    s.turn.phase = .dispatch ⟨.loadB, 0⟩ ∧ isStore (.sw 1 2 0) = true ∧ (s.entry ⟨.loadB, 0⟩).eligible = true ∧
    (s.bypSlot 0).busy = false ∧ 0 < s.byp.length := by decide

/-- The block of `dispatching` with older stores at tags 0 and 1 and the load at tag 2. -/
def loadBehind (x y : RobSlot) : State :=
  let s := dispatching .loadB (.lw 1 2 0) State.reset
  let s := { s with
    rob := { slots := ((s.rob.slots.set 0 { x with live := true, instr := (Instr.sw 1 0 0).record 0 }).set 1
               { y with live := true, instr := (Instr.sw 1 0 0).record 4 }).set 2
               { RobSlot.empty with live := true, instr := (Instr.lw 1 2 0).record 8 }
             head := 0, tail := 3, count := 3 } }
  s.setEntry ⟨.loadB, 0⟩ { s.entry ⟨.loadB, 0⟩ with tagD := 2 }

/-- Each outcome of the check, with and without what holds a load that needs memory. -/
theorem witness_LoadDispatchByDisambiguation :
    let dead := dispatching .loadB (.lw 1 2 0) State.reset
    let fwd := loadBehind (readySlot 1 8) (readySlot 2 4)
    let conf := loadBehind (readySlot 1 8) RobSlot.empty
    let clear := loadBehind (readySlot 1 0) (readySlot 2 4)
    isLoad (.lw 1 2 0) = true ∧
    (∀ s ∈ [dead, fwd, conf, clear], s.turn.phase = .dispatch ⟨.loadB, 0⟩ ∧
      (s.entry ⟨.loadB, 0⟩).eligible = true ∧ (s.bypSlot 0).busy = false ∧ (s.lane .memory 0).busy = false ∧
      s.memBlock = false ∧ s.turn.memTimedIssued = false) ∧
    dead.disambiguate (dead.entry ⟨.loadB, 0⟩) = .notLive ∧ fwd.disambiguate (fwd.entry ⟨.loadB, 0⟩) = .bypass 1 ∧
    conf.disambiguate (conf.entry ⟨.loadB, 0⟩) = .conflict ∧ clear.disambiguate (clear.entry ⟨.loadB, 0⟩) = .clear ∧
    (∀ l ∈ (lanesBusy .memory 1 clear).lanes.memory, l.busy = true) := by decide

/-- A load of age 2: the nearest slot decides, the farthest does, none does; and a tag that is not live. -/
theorem witness_NearestOlderStoreDecides :
    let s := loadBehind (readySlot 1 8) (readySlot 2 4)
    let e := s.entry ⟨.loadB, 0⟩
    s.rob.head < s.cfg.robSize ∧ s.rob.count ≤ s.cfg.robSize ∧ 2 < s.rob.count ∧
    (s.rob.head + 2) % s.cfg.robSize = e.tagD ∧ (s.slotAtAge 1).Transparent e.addr ∧
    (s.slotAtAge 0).instr.opIsStore = true ∧ (s.slotAtAge 0).addrKnown = true ∧ (s.slotAtAge 0).addr = e.addr ∧
    ((loadBehind (readySlot 1 8) RobSlot.empty).slotAtAge 1).addrKnown = false ∧
    ((loadBehind (readySlot 1 0) (readySlot 2 4)).slotAtAge 0).Transparent e.addr ∧
    ({ e with tagD := 3 } : RsEntry).tagD ∉ s.liveTags := by decide

theorem witness_DispatchWritesNoResult :
    ((next? (dispatchPhase (dispatching .intRs (.add 3 1 2) State.reset))).map fun t => (t.lane .integer 0).busy) =
      some true := by decide

/-- Two cycles to go, a free lane, a done lane. -/
theorem witness_CountdownContinues :
    let s := at' (.complete .divider 0) (State.reset.setLane .divider 0 ⟨true, ⟨.multRs, 0⟩, 2, 0, false, false⟩)
    s.turn.phase = .complete .divider 0 ∧ (s.lane .divider 0).busy = true ∧ (s.lane .divider 0).done = false ∧
    (s.lane .divider 0).ttl = 0 + 2 ∧ (State.reset.lane .divider 0).busy = false ∧
    ((State.reset.setLane .divider 0 ⟨true, ⟨.multRs, 0⟩, 0, 7, false, true⟩).lane .divider 0).done = true := by decide

theorem witness_IntegerResults :
    (finishing .integer (.add 3 1 2) 0 5 7).Finishing .integer 0 ∧
    ((finishing .integer (.add 3 1 2) 0 5 7).served .integer 0).op1.value = 5 ∧
    ((finishing .integer (.add 3 1 2) 0 5 7).served .integer 0).op2.value = 7 := by decide

theorem witness_MultiplyKeepsLowHalf :
    (finishing .multiplier (.mult 3 1 2) 0 0x10000 0x10000).Finishing .multiplier 0 := by decide

/-- A zero divisor, the signed overflow and its neighbour, and both modes. -/
theorem witness_DivideResultOrFault :
    let s := fun a b => finishing .divider (.div 3 1 2) 0 a b
    let u := fun a b => ({ s a b with cfg := { (s a b).cfg with divSigned := false } } : State)
    (s 5 0).Finishing .divider 0 ∧ ((s 5 0).served .divider 0).op2.value = 0 ∧
    (s 0x80000000 0xFFFFFFFF).cfg.divSigned = true ∧ s32 0x80000000 = -2 ^ 31 ∧ s32 0xFFFFFFFF = -1 ∧
    ¬ (s32 0x80000000 = -2 ^ 31 ∧ s32 1 = -1) ∧ (u 0x80000000 0xFFFFFFFF).Finishing .divider 0 ∧
    (u 0x80000000 0xFFFFFFFF).cfg.divSigned = false ∧ (0xFFFFFFFF : Word) ≠ 0 := by decide

theorem witness_BranchesResolve :
    (finishing .integer (.bgez 1 8) 0xFFFFFFFC 0x80000000 0).Finishing .integer 0 ∧
    (finishing .integer (.jump 8) 0 0 0).Finishing .integer 0 := by decide

/-- A load at address `a` ends its countdown, and a word of memory is there. -/
abbrev LoadsAt (a : Word) : Prop :=
  (loading (.lws 1 0 0) a).Finishing .memory 0 ∧ isLoad (.lws 1 0 0) = true ∧
  ((loading (.lws 1 0 0) a).served .memory 0).addr = a ∧ a.toNat % 4 = 0 ∧
  a.toNat + 4 ≤ (loading (.lws 1 0 0) a).cfg.memSize

/-- The first and the last word of memory. -/
theorem witness_LoadReadsWord : LoadsAt 0 ∧ LoadsAt 252 := by decide

/-- A load ends its countdown, and a store its commit, at address `a`. -/
abbrev AccessAt (a : Word) : Prop :=
  (loading (.lw 1 0 0) a).Finishing .memory 0 ∧ ((loading (.lw 1 0 0) a).served .memory 0).addr = a ∧
  (storing (.sw 1 0 0) 7 a).Committing ∧ (storing (.sw 1 0 0) 7 a).storeCyclesLeft = 1 ∧
  (storing (.sw 1 0 0) 7 a).headSlot.addr = a

/-- Misaligned in range, misaligned past the end, and the first word past the end, for a load and for a store whose
countdown starts and ends in one cycle (`LAT[MEMORY] = 1`) or ends in this one. -/
theorem witness_DataAccessFaults :
    AccessAt 1 ∧ AccessAt 0xFFFFFFFF ∧ AccessAt 256 ∧
    (1 : Word).toNat % 4 ≠ 0 ∧ (0xFFFFFFFF : Word).toNat % 4 ≠ 0 ∧ (256 : Word).toNat % 4 = 0 ∧
    (storing (.sw 1 0 0) 7 256).cfg.memSize < (256 : Word).toNat + 4 ∧
    ({ headed (.sw 1 0 0) (readySlot 7 2) with cfg := { Config.ref with lat := ⟨1, 2, 4, 8, 1⟩ } } :
      State).storeCyclesLeft = 1 := by decide

theorem finiteValue_one : finiteValue 0x3F800000 = some 1 := by
  have : floatVal 0x3F800000 = .fin false (2 ^ 23) (-23) := by decide
  simp only [finiteValue, this]; norm_num

theorem finiteValue_zero : finiteValue 0x80000000 = some 0 := by
  have : floatVal 0x80000000 = .fin true 0 (-149) := by decide
  simp only [finiteValue, this]; norm_num

theorem witness_FloatResultsRoundOnce :
    (finishing .adder (.adds 3 1 2) 0 0x3F800000 0x80000000).Finishing .adder 0 ∧
    finiteValue 0x3F800000 = some 1 ∧ finiteValue 0x80000000 = some 0 ∧ (1 : ℚ) ≠ 0 ∧ (0 : ℚ) + 0 = 0 :=
  ⟨by decide, finiteValue_one, finiteValue_zero, by norm_num, by norm_num⟩

/-- One invalid operation of each opcode, and a NaN operand. -/
theorem witness_FloatNanIsTheParameter :
    (finishing .adder (.adds 3 1 2) 0 0x7F800000 0xFF800000).Finishing .adder 0 ∧
    givesNan .adds 0x7F800000 0xFF800000 = true ∧ givesNan .subs 0x7F800000 0x7F800000 = true ∧
    givesNan .mults 0x80000000 0x7F800000 = true ∧ givesNan .divs 0 0x80000000 = true ∧
    givesNan .divs 0xFF800000 0x7F800000 = true ∧ givesNan .adds 0x7F800001 0 = true := by decide

theorem witness_FloatInfinities :
    (finishing .divider (.divs 3 1 2) 0 0x3F800000 0x80000000).Finishing .divider 0 ∧
    givesNan .adds 0x7F800000 0x7F800000 = false ∧ isInf 0x7F800000 = true ∧
    givesNan .subs 0x3F800000 0xFF800000 = false ∧ isInf 0xFF800000 = true ∧
    givesNan .mults 0x00000001 0xFF800000 = false ∧ givesNan .divs 0x3F800000 0x80000000 = false ∧
    isZero 0x80000000 = true ∧ givesNan .divs 0 0x7F800000 = false := by decide

/-- One completion and two. -/
theorem witness_BypassSlotsFinish : State.reset.turn.memDone ≤ 1 ∧
    1 < ({ State.reset with turn := { Turn.start with memDone := 2 } } : State).turn.memDone := by decide

/-- A done lane of tag 0 and a done bypass slot of tag 1, each with its entry. -/
def twoDone : State :=
  ((State.reset.setEntry ⟨.intRs, 0⟩ (entryOf (.beqz 1 0) 0 5 0)).setLane .integer 0
      ⟨true, ⟨.intRs, 0⟩, 0, 4, true, true⟩).setEntry ⟨.loadB, 0⟩ { entryOf (.sw 1 2 0) 4 0 9 with tagD := 1 }
    |>.setByp 0 ⟨true, ⟨.loadB, 0⟩, 9, true⟩

theorem witness_WritebackBroadcasts :
    let s := at' (.writeback (.timed .integer 0)) twoDone
    s.turn.phase = .writeback (.timed .integer 0) ∧ (s.slotView (.timed .integer 0)).rs = ⟨.intRs, 0⟩ ∧
    0 < (s.rs.get .intRs).length ∧ (s.entry ⟨.intRs, 0⟩).tagD < s.rob.slots.length ∧
    (at' (.writeback (.bypass 0)) twoDone).turn.phase = .writeback (.bypass 0) ∧
    ((at' (.writeback (.bypass 0)) twoDone).entry ⟨.loadB, 0⟩).tagD < twoDone.rob.slots.length := by decide

theorem witness_WritebackOrderIsImmaterial :
    (SlotRef.timed .integer 0) ≠ .bypass 0 ∧
    (twoDone.slotView (.timed .integer 0)).rs ≠ (twoDone.slotView (.bypass 0)).rs ∧
    (twoDone.entry (twoDone.slotView (.timed .integer 0)).rs).tagD ≠
      (twoDone.entry (twoDone.slotView (.bypass 0)).rs).tagD := by decide

/-- An empty ROB, and a head that is not ready. -/
theorem witness_HeadNotReadyStalls : State.reset.turn.phase = .commit ∧ State.reset.rob.count = 0 ∧
    (headed (.add 1 2 3) RobSlot.empty).turn.phase = .commit ∧
    (headed (.add 1 2 3) RobSlot.empty).headSlot.ready = false := by decide

/-- An integer and a floating destination, `R0` among them, with the register's tag the head's and another's. -/
theorem witness_CommitWritesDestination :
    (headed (.addi 0 1 2) (readySlot 7 0)).Committing ∧ dest? (.addi 0 1 2) = some (.gpr 0) ∧
    (headed (.divs 31 1 2) (readySlot 7 0)).Committing ∧ dest? (.divs 31 1 2) = some (.fpr 31) ∧
    (((headed (.addi 0 1 2) (readySlot 7 0)).setReg (.gpr 0) ⟨0, true, 0⟩).reg (.gpr 0)).tag = 0 ∧
    (((headed (.addi 0 1 2) (readySlot 7 0)).setReg (.gpr 0) ⟨0, true, 1⟩).reg (.gpr 0)).tag ≠ 0 := by decide

theorem witness_UntakenBranchRetires : (headed (.blez 1 8) (readySlot 12 0)).Committing ∧
    isBranch (.blez 1 8) = true ∧ (headed (.blez 1 8) (readySlot 12 0)).headSlot.misPred = false := by decide

theorem witness_TakenBranchSquashes :
    (headed (.jump 4) { readySlot 8 0 with misPred := true }).Committing ∧ isBranch (.jump 4) = true ∧
    (headed (.jump 4) { readySlot 8 0 with misPred := true }).headSlot.misPred = true := by decide

/-- The first cycle of a countdown of two, and a later cycle with two to go. -/
theorem witness_StoreHoldsTheHead :
    (headed (.sw 1 0 0) (readySlot 5 0)).Committing ∧ isStore (.sw 1 0 0) = true ∧
    (headed (.sw 1 0 0) (readySlot 5 0)).storeCyclesLeft = 0 + 2 ∧
    (headed (.sws 1 0 0) { readySlot 5 0 with stctr := some 2 }).storeCyclesLeft = 0 + 2 := by decide

/-- A store in its last commit cycle, and a word of memory at its address `a`. -/
abbrev StoresAt (a : Word) : Prop :=
  (storing (.sws 1 0 0) 7 a).Committing ∧ isStore (.sws 1 0 0) = true ∧
  (storing (.sws 1 0 0) 7 a).storeCyclesLeft = 1 ∧ (storing (.sws 1 0 0) 7 a).mem.wf = true ∧
  (storing (.sws 1 0 0) 7 a).headSlot.addr = a ∧ a.toNat % 4 = 0 ∧
  a.toNat + 4 ≤ (storing (.sws 1 0 0) 7 a).cfg.memSize

/-- The first and the last word of memory. -/
theorem witness_StoreWritesItsWord : StoresAt 0 ∧ StoresAt 252 := by decide

/-- Each phase has an instruction whose turn it is. -/
theorem witness_PhasesRunTheRecords :
    (headed (.add 1 2 3) (readySlot 0 0)).rob.count ≠ 0 ∧
    (headed (.add 1 2 3) (readySlot 0 0)).headSlot.instr.instr? = some (.add 1 2 3) ∧
    (twoDone.slotView (.timed .integer 0)).done = true ∧
    (twoDone.entry (twoDone.slotView (.timed .integer 0)).rs).instr.instr? = some (.beqz 1 0) ∧
    ((addressing (.lw 1 2 4) 8).entry ⟨.loadB, 3⟩).busy = true ∧
    ((addressing (.lw 1 2 4) 8).entry ⟨.loadB, 3⟩).instr.instr? = some (.lw 1 2 4) ∧
    ((finishing .adder (.subs 1 2 3) 0 0 0).lane .adder 0).busy = true ∧
    ((finishing .adder (.subs 1 2 3) 0 0 0).lane .adder 0).done = false ∧
    ((finishing .adder (.subs 1 2 3) 0 0 0).served .adder 0).instr.instr? = some (.subs 1 2 3) := by decide

theorem witness_runnable : addiProgram.Runnable ∧ addiProgram.fault = .noFault := by decide

theorem witness_StepRunsDecodedInstruction :
    ∃ u, beforeIssue { addiProgram with turn := Turn.start } = .next u ∧ addiProgram.Runnable ∧ u.fault = .noFault ∧
      u.cfg.issueWidth = 3 + 1 ∧ u.rob.count ≠ u.cfg.robSize ∧ u.fetch = some 0x000000000000000500040823 ∧
      decode 0x000000000000000500040823 u.pc = .ok (.addi 1 0 5) :=
  ⟨addiProgram, by rfl, by decide, by decide, by decide, by decide, by decide, by rfl⟩

theorem witness_IdleStepIssuesAtPc : addiProgram.Runnable ∧ addiProgram.fault = .noFault ∧ addiProgram.Idle ∧
    addiProgram.fetch = some 0x000000000000000500040823 ∧
    decode 0x000000000000000500040823 addiProgram.pc = .ok (.addi 1 0 5) := ⟨by decide, by decide, by decide, by decide, by rfl⟩

/-- Each way to be stopped, and none. -/
theorem witness_OnlyTheseStopTheModel :
    ({ addiProgram with cfg := { Config.ref with issueWidth := 0 } } : State).cfg.wf = false ∧
    State.reset.cfg.wf = true ∧ State.reset.prog = [] ∧
    ({ addiProgram with byp := [] } : State).shaped = false ∧ addiProgram.Runnable := by decide

theorem witness_FaultedBlockIsFrozen :
    ({ addiProgram with fault := .divFault } : State).Runnable ∧
    ({ addiProgram with fault := .divFault } : State).fault ≠ .noFault := by decide

/-- A step that raises no fault, and one that raises one. -/
theorem witness_CycleCountsUnfaultedSteps :
    ((next? (step addiProgram)).map fun t => t.fault) = some .noFault ∧
    ((next? (step (loaded [0x1C]))).map fun t => t.fault) = some .unknownOpcode := by decide

/-- The block on an `EOP` with nothing in flight. -/
theorem witness_HaltedStepCountsOnly :
    (loaded [0x15]).Runnable ∧ (loaded [0x15]).Halted ∧ (loaded [0x15]).InFlightOk ∧ (loaded [0x15]).turn = Turn.start := by
  decide

/-- Memory images: zero everywhere, and with the first and the last byte of `MEM_SIZE` not zero. -/
theorem witness_LaunchMeetsInvariants : Config.ref.wf = true ∧ addiProgram.prog ≠ [] ∧
    addiProgram = State.launch Config.ref addiProgram.prog (fun _ => 0) (fun _ => 0) [] ∧
    Memory.wf [] = true ∧ Memory.wf [(0, 7), (255, 9)] = true ∧
    ∀ c ∈ ([(0, 7), (255, 9)] : Memory), c.1 < Config.ref.memSize := by decide

/-- The invariants hold together of a block that steps without a fault. -/
theorem witness_invariants : addiProgram.Runnable ∧ addiProgram.RegsOk ∧ addiProgram.InFlightOk ∧
    addiProgram.WaitsOk ∧ addiProgram.LoadsStaggered ∧ addiProgram.fault = .noFault ∧
    ((next? (step addiProgram)).map fun t => t.fault) = some .noFault := by
  refine ⟨by decide, by decide, by decide, by decide, by decide, by decide, by decide⟩

/-- An empty ROB, in a block that steps. -/
theorem witness_RobNeverUnderflows : addiProgram.rob.count = 0 ∧ addiProgram.fault = .noFault ∧
    (next? (step addiProgram)).isSome = true := by decide

theorem witness_CommitAloneWritesArchitecture :
    addiProgram.Runnable ∧ (∃ u, commitPhase { addiProgram with turn := Turn.start } = .next u) ∧
    (next? (step addiProgram)).isSome = true := by
  refine ⟨by decide, ⟨_, rfl⟩, by decide⟩

/-- The first and the last word of memory. -/
theorem witness_MemoryKeepsWords : addiProgram.mem.wf = true ∧ (0 : Word).toNat % 4 = 0 ∧
    (0 : Word).toNat + 4 ≤ addiProgram.cfg.memSize ∧ (252 : Word).toNat % 4 = 0 ∧
    (252 : Word).toNat + 4 ≤ addiProgram.cfg.memSize := by decide

/-- The four steps after which the program has committed its instruction. -/
theorem witness_CommittedStateIsSequential :
    addiProgram.Runnable ∧ (4 : Nat) < 2 ^ 64 ∧
    ((next? (Sys2Proof.core.run 4 addiProgram)).map fun t : State => (t.fault, t.committed, (t.reg (.gpr 1)).value)) =
      some (.noFault, 1, 5) := by refine ⟨by decide, by decide, by decide⟩

/-- A store in the last entry of `LOAD_B`, not executing, behind three entries that hold a bypass slot each. -/
def lastStore : State :=
  let e (x : Bool) (t : Nat) : RsEntry := { entryOf (.sw 1 2 0) 0 8 7 with inExec := x, tagD := t }
  at' (.dispatch ⟨.loadB, 3⟩)
    { addiProgram with
      rs := addiProgram.rs.set .loadB [e true 0, e true 1, e true 2, e false 3]
      byp := [⟨true, ⟨.loadB, 0⟩, 7, true⟩, ⟨true, ⟨.loadB, 1⟩, 7, true⟩, ⟨true, ⟨.loadB, 2⟩, 7, true⟩, BypSlot.empty] }

/-- A block before its cycle; a turn of X2; an eligible entry with one bypass slot free, the last. -/
theorem witness_BypassSlotAlwaysFree :
    addiProgram.InFlightOk ∧
    (next? (andThen (andThen (commitPhase { addiProgram with turn := Turn.start }) writebackPhase) addressPhase)).isSome =
      true ∧
    lastStore.Runnable ∧ lastStore.SlotsOk ∧ ⟨.loadB, 3⟩ ∈ lastStore.entriesOldestFirst .memory ∧
    (next? (dispatchEntry ⟨.loadB, 3⟩ lastStore)).isSome = true ∧
    (lastStore.entry ⟨.loadB, 3⟩).eligible = true ∧ isStore (.sw 1 2 0) = true ∧
    lastStore.turn.phase = .dispatch ⟨.loadB, 3⟩ := by
  refine ⟨by decide, by decide, by decide, by decide, by decide, by decide, by decide, by decide, by decide⟩

/-! ## Witnesses of the statements about whole phases -/

/-- Four instructions in flight, none executing: two `ADD` in `INT_RS`, the younger at index 0, a store to address 4 and a
younger load of address 8. -/
def flight : State :=
  let slot (i : Instr) : RobSlot := { RobSlot.empty with live := true, instr := i.record 0 }
  let e (i : Instr) (t : Nat) (a : Word) : RsEntry :=
    { entryOf i 0 8 7 with inExec := false, tagD := t, addr := a }
  { addiProgram with
    rob := ⟨[slot (.add 1 2 3), slot (.add 2 2 3), { slot (.sw 1 2 0) with addr := 4, addrKnown := true },
             slot (.lw 1 2 0)] ++ List.replicate 4 RobSlot.empty, 0, 4, 4⟩
    rs := ⟨[e (.add 2 2 3) 1 0, e (.add 1 2 3) 0 0, RsEntry.empty, RsEntry.empty], addiProgram.rs.addRs,
           addiProgram.rs.multRs, [e (.sw 1 2 0) 2 4, e (.lw 1 2 0) 3 8, RsEntry.empty, RsEntry.empty]⟩ }

/-- The queues of `flight`. -/
def flightQueue : UnitClass → List RsRef
  | .integer => [⟨.intRs, 1⟩, ⟨.intRs, 0⟩]
  | .memory => [⟨.loadB, 0⟩, ⟨.loadB, 1⟩]
  | _ => []

/-- `flight` with its addresses not known yet. -/
def unaddressed : State := flight.mapEntries fun e => { e with addrKnown := false }

theorem witness_addressPhase : unaddressed.Runnable ∧ unaddressed.PoolsOk ∧ unaddressed.fault = .noFault ∧
    (unaddressed.entry ⟨.loadB, 0⟩).NeedsAddress ∧ (unaddressed.entry ⟨.loadB, 0⟩).instr.opIsStore = true := by
  refine ⟨by decide, by decide, by decide, by decide, by decide⟩

theorem witness_DispatchServesOldestFirst : flight.Runnable ∧ flight.PoolsOk ∧ flight.SlotsOk ∧
    flight.fault = .noFault ∧ (∀ c ∈ UnitClass.all, flight.Queue c (flightQueue c)) ∧
    flight.started flightQueue = [⟨.intRs, 1⟩, ⟨.intRs, 0⟩, ⟨.loadB, 1⟩, ⟨.loadB, 0⟩] := by
  refine ⟨by decide, by decide, by decide, by decide, by decide, by decide⟩

/-- `flight` after its dispatch, with lane 0 of class `INTEGER` as given. -/
def serving (l : Lane) : State :=
  (flight.setEntry ⟨.intRs, 1⟩ { flight.entry ⟨.intRs, 1⟩ with inExec := true }).setLane .integer 0
    { l with busy := true, rs := ⟨.intRs, 1⟩ }

theorem witness_WritebackServesEveryDoneSlot : (serving ⟨true, ⟨.intRs, 1⟩, 0, 9, false, true⟩).Runnable ∧
    (serving ⟨true, ⟨.intRs, 1⟩, 0, 9, false, true⟩).LanesLegal ∧
    (serving ⟨true, ⟨.intRs, 1⟩, 0, 9, false, true⟩).PoolsOk ∧
    (serving ⟨true, ⟨.intRs, 1⟩, 0, 9, false, true⟩).SlotsOk ∧
    (serving ⟨true, ⟨.intRs, 1⟩, 0, 9, false, true⟩).fault = .noFault ∧
    (serving ⟨true, ⟨.intRs, 1⟩, 0, 9, false, true⟩).doneSlots = [.timed .integer 0] := by
  refine ⟨by decide, by decide, by decide, by decide, by decide, by decide⟩

theorem witness_TablesOk : flight.TablesOk ∧ (serving ⟨true, ⟨.intRs, 1⟩, 0, 9, false, true⟩).TablesOk ∧
    flight.InFlightOk := by refine ⟨by decide, by decide, by decide⟩

/-- `flight` with the lane of class `DIVIDER` one cycle from the end of a division by zero. -/
def dividing : State :=
  let s := flight.setLane .divider 0 ⟨true, ⟨.multRs, 0⟩, 1, 0, false, false⟩
  s.setEntry ⟨.multRs, 0⟩ (entryOf (.div 1 2 3) 0 8 0)

/-- Every lane's turn without a fault; then a lane whose turn raises one, and none before it. -/
theorem witness_countPhase :
    ((serving ⟨true, ⟨.intRs, 1⟩, 1, 0, false, false⟩).Runnable ∧
      (serving ⟨true, ⟨.intRs, 1⟩, 1, 0, false, false⟩).SlotsOk ∧
      ∀ c j, ((serving ⟨true, ⟨.intRs, 1⟩, 1, 0, false, false⟩).laneTurn c j).fault = .noFault) ∧
    dividing.Runnable ∧ dividing.SlotsOk ∧ (dividing.laneTurn .divider 0).fault = .divFault ∧
    ∀ c' j', laneBefore c' j' .divider 0 → (dividing.laneTurn c' j').fault = .noFault := by
  refine ⟨⟨by decide, by decide, fun c j => ?_⟩, by decide, by decide, by decide, fun c j h => ?_⟩
  · cases c <;> rcases j with _ | _ | j <;> rfl
  · cases c <;> first | (rcases j with _ | _ | j <;> rfl) | exact absurd h (by simp [laneBefore])

/-- Two loads whose countdown ends in the same X3, on a block with two lanes of class `MEMORY`. -/
def twoLoads : State :=
  let e : RsEntry := entryOf (.lw 1 2 0) 0 8 0
  { addiProgram with
    cfg := { addiProgram.cfg with lanes := ⟨2, 1, 1, 1, 2⟩ }
    rs := addiProgram.rs.set .loadB [e, { e with tagD := 1 }, RsEntry.empty, RsEntry.empty]
    lanes := addiProgram.lanes.set .memory
      [⟨true, ⟨.loadB, 0⟩, 1, 0, false, false⟩, ⟨true, ⟨.loadB, 1⟩, 1, 0, false, false⟩] }

theorem witness_countPhase_two_loads : twoLoads.Runnable ∧ twoLoads.SlotsOk ∧ twoLoads.loadsEnding = 2 ∧
    ∀ c j, (twoLoads.laneTurn c j).fault = .noFault := by
  refine ⟨by decide, by decide, by decide, fun c j => ?_⟩
  cases c <;> rcases j with _ | _ | j <;> rfl

/-- A taken branch at the head: C redirects `pc`. -/
theorem witness_IssueMovesTogether :
    let s := { headed (.jump 4) { readySlot 8 0 with misPred := true } with prog := addiProgram.prog }
    s.Runnable ∧ s.fault = .noFault ∧ (next? (step s)).isSome = true ∧ s.pc = 0 ∧
    (next? (commitPhase { s with turn := Turn.start })).map (fun u => u.pc) = some 8 := by
  refine ⟨by decide, by decide, by decide, by decide, by decide⟩

end Sys2Proof.Tests
end

section
/-! PROOFS. The configuration and the program (00_scope.md R8) are set at launch and never written: one lemma per action,
then one per phase, up to the cycle. Each phase lemma also says that the phase answers a next state, so that the
same composition shows what stops the model (93 U17, U18) and that nothing else does. -/

namespace Sys2Proof.Machine

/-- The configuration and the program of `t` are those of `s`. -/
@[simp] abbrev State.SameSetup (s t : State) : Prop := t.cfg = s.cfg ∧ t.prog = s.prog

/-! ## Issue -/

@[simp] theorem State.renameDst_sameSetup (s : State) (dst : Option RegName) (t : Nat) :
    s.SameSetup (s.renameDst dst t) := by
  cases dst <;> simp [State.renameDst]

@[simp] theorem State.issueInto_sameSetup (s : State) (p : Pool) (ops : Operands) (b : Bool) (r : Record) :
    s.SameSetup (s.issueInto p ops b r) := by
  obtain ⟨h, -⟩ | ⟨k, -, -, h⟩ := s.issueInto_cases p ops b r <;> simp [h]

/-! ## Address generation and dispatch -/

@[simp] theorem State.generateAddress_sameSetup (s : State) (k : Nat) (imm : Word) (st : Bool) :
    s.SameSetup (s.generateAddress k imm st) := by
  cases h : (s.entry ⟨.loadB, k⟩).wantsAddress
  · simp [State.generateAddress_skip h]
  · cases st
    · simp [State.generateAddress_load h]
    · simp [State.generateAddress_store h]

@[simp] theorem State.markExecuting_sameSetup (s : State) (ref : RsRef) : s.SameSetup (s.markExecuting ref) := by
  simp [State.markExecuting_eq]

@[simp] theorem State.dispatchTimed_sameSetup (s : State) (c : UnitClass) (ref : RsRef) :
    s.SameSetup (s.dispatchTimed c ref) := by
  cases h : s.freeLane c
  · simp [State.dispatchTimed_none h]
  · simp [State.dispatchTimed_some h]

@[simp] theorem State.dispatchBypass_sameSetup (s : State) (ref : RsRef) (v : Word) :
    s.SameSetup (s.dispatchBypass ref v) := by
  cases h : s.freeByp
  · simp [State.dispatchBypass_none h]
  · simp [State.dispatchBypass_some h]

@[simp] theorem State.dispatchMemory_sameSetup (s : State) (ref : RsRef) : s.SameSetup (s.dispatchMemory ref) := by
  obtain ⟨h, -⟩ | ⟨j, -, -, -, h⟩ := s.dispatchMemory_cases ref <;> simp [h]

@[simp] theorem State.dispatchAlu_sameSetup (s : State) (c : UnitClass) (ref : RsRef) :
    s.SameSetup (s.dispatchAlu c ref) := by
  unfold State.dispatchAlu
  split_ifs <;> simp

@[simp] theorem State.dispatchStore_sameSetup (s : State) (ref : RsRef) : s.SameSetup (s.dispatchStore ref) := by
  unfold State.dispatchStore
  split_ifs <;> simp

@[simp] theorem State.dispatchLoad_sameSetup (s : State) (ref : RsRef) : s.SameSetup (s.dispatchLoad ref) := by
  obtain ⟨-, h⟩ | ⟨-, ⟨-, h⟩ | ⟨-, h⟩ | ⟨v, -, h⟩ | ⟨-, h⟩⟩ := s.dispatchLoad_cases ref <;> simp [h]

/-! ## Countdown and compute -/

@[simp] theorem State.finishLane_sameSetup (s : State) (c : UnitClass) (j : Nat) (v : Word) (m : Bool) :
    s.SameSetup (s.finishLane c j v m) := ⟨rfl, rfl⟩

@[simp] theorem State.finishAlu_sameSetup (s : State) (c : UnitClass) (j : Nat) (pc : Word) (x : Except FaultCode Word) :
    s.SameSetup (s.finishAlu c j pc x) := by
  cases x <;> exact ⟨rfl, rfl⟩

@[simp] theorem State.finishLoad_sameSetup (s : State) (c : UnitClass) (j : Nat) (e : RsEntry) :
    s.SameSetup (s.finishLoad c j e) := by
  unfold State.finishLoad
  cases s.memRead e.addr <;> exact ⟨rfl, rfl⟩

@[simp] theorem computes_sameSetup (i : Instr) (c : UnitClass) (j : Nat) (e : RsEntry) (s : State) :
    s.SameSetup (computes i c j e s) := by
  unfold computes
  split_ifs
  · simp
  · simp
  · simp
  · split <;> simp

/-- A countdown keeps the setup when what it runs at zero does. -/
theorem State.countDown_sameSetup (s : State) (c : UnitClass) (j : Nat) {k : RsEntry → State → State}
    (hk : ∀ e (u : State), u.SameSetup (k e u)) : s.SameSetup (s.countDown c j k) := by
  unfold State.countDown
  dsimp only
  split_ifs
  · exact hk _ _
  · exact ⟨rfl, rfl⟩
  · exact ⟨rfl, rfl⟩

/-! ## Commit -/

@[simp] theorem State.stampCommit_sameSetup (s : State) : s.SameSetup s.stampCommit := by
  obtain h | h := s.stampCommit_cases <;> simp [h]

@[simp] theorem State.commitReg_sameSetup (s : State) (dst : Option RegName) : s.SameSetup (s.commitReg dst) := by
  cases dst <;> simp [State.commitReg]

@[simp] theorem State.popAndCount_sameSetup (s : State) : s.SameSetup s.popAndCount := by
  by_cases h : s.rob.count = 0
  · simp [State.popAndCount, h]
  · simp [State.popAndCount_of_ne h]

@[simp] theorem State.commitResult_sameSetup (s : State) (dst : Option RegName) : s.SameSetup (s.commitResult dst) := by
  cases h : s.headReady
  · simp [State.commitResult_stall h]
  · simp [State.commitResult_ready h]

@[simp] theorem State.commitBranch_sameSetup (s : State) : s.SameSetup s.commitBranch := by
  unfold State.commitBranch
  dsimp only
  split_ifs <;> simp

@[simp] theorem State.storeCountdown_sameSetup (s : State) : s.SameSetup s.storeCountdown := ⟨rfl, rfl⟩

@[simp] theorem State.storeWrite_sameSetup (s : State) : s.SameSetup s.storeWrite := by
  obtain ⟨f, -, h⟩ | ⟨-, h⟩ := s.storeWrite_cases <;> simp [h]

@[simp] theorem State.commitStore_sameSetup (s : State) : s.SameSetup s.commitStore := by
  cases h : s.headReady
  · simp [State.commitStore_stall h]
  · rw [State.commitStore_ready h]
    split_ifs <;> simp

/-! ## Results that are a next state with the same setup -/

/-- The result is a next state, with the configuration and the program of `s`. -/
def State.NextKeepsSetup (s : State) (o : Result) : Prop := ∃ t, o = .next t ∧ s.SameSetup t

theorem State.nextKeepsSetup_next {s t : State} (h : s.SameSetup t) : s.NextKeepsSetup (.next t) := ⟨t, rfl, h⟩

theorem State.SameSetup.nextKeepsSetup {s u : State} {o : Result} (h : s.SameSetup u) (ho : u.NextKeepsSetup o) :
    s.NextKeepsSetup o := by
  obtain ⟨t, rfl, hcfg, hprog⟩ := ho
  exact ⟨t, rfl, hcfg.trans h.1, hprog.trans h.2⟩

theorem State.NextKeepsSetup.andThen {s : State} {o : Result} {f : State → Result} (ho : s.NextKeepsSetup o)
    (hf : ∀ u : State, u.NextKeepsSetup (f u)) : s.NextKeepsSetup (andThen o f) := by
  obtain ⟨u, rfl, hu⟩ := ho
  rw [andThen_next]
  split_ifs
  · exact hu.nextKeepsSetup (hf u)
  · exact nextKeepsSetup_next hu

theorem forEach_nextKeepsSetup {α : Type} {f : α → State → Result} (hf : ∀ x (s : State), s.NextKeepsSetup (f x s))
    (l : List α) :
    ∀ s : State, s.NextKeepsSetup (forEach f l s) := by
  induction l with
  | nil => exact fun s => State.nextKeepsSetup_next ⟨rfl, rfl⟩
  | cons x l ih => exact fun s => (hf x s).andThen ih

/-! ## One instruction's turn -/

theorem exec_nextKeepsSetup (i : Instr) (s : State) : s.NextKeepsSetup (exec i s) := by
  cases h : s.turn.phase with
  | commit =>
    rw [exec_at_commit h]
    refine State.nextKeepsSetup_next ?_
    split_ifs <;> simp
  | writeback l =>
    rw [exec_at_writeback h]
    refine State.nextKeepsSetup_next ?_
    split_ifs <;> simp
  | address k =>
    rw [exec_at_address h]
    refine State.nextKeepsSetup_next ?_
    split_ifs <;> simp
  | dispatch e =>
    rw [exec_at_dispatch h]
    refine State.nextKeepsSetup_next ?_
    cases classOf? i with
    | none => simp
    | some c => dsimp only; split_ifs <;> simp
  | complete c j =>
    rw [exec_at_complete h]
    exact State.nextKeepsSetup_next (s.countDown_sameSetup c j (computes_sameSetup i c j))
  | issue r =>
    rw [exec_at_issue h]
    refine State.nextKeepsSetup_next ?_
    cases classOf? i <;> simp
  | finalize =>
    rw [exec_at_finalize h]
    exact State.nextKeepsSetup_next ⟨rfl, rfl⟩

theorem visit_nextKeepsSetup (p : Phase) (r : Record) (s : State) : s.NextKeepsSetup (visit p r s) := by
  unfold visit
  split
  · exact State.SameSetup.nextKeepsSetup ⟨rfl, rfl⟩ (exec_nextKeepsSetup _ (s.atPhase p))
  · exact State.nextKeepsSetup_next ⟨rfl, rfl⟩

/-! ## The phases -/

theorem commitPhase_nextKeepsSetup (s : State) : s.NextKeepsSetup (commitPhase s) := by
  unfold commitPhase
  split_ifs
  · exact State.nextKeepsSetup_next ⟨rfl, rfl⟩
  · exact visit_nextKeepsSetup _ _ s

theorem writebackPhase_nextKeepsSetup (s : State) : s.NextKeepsSetup (writebackPhase s) := by
  refine forEach_nextKeepsSetup (fun l u => ?_) _ s
  unfold writebackSlot
  split_ifs
  · exact visit_nextKeepsSetup _ _ u
  · exact State.nextKeepsSetup_next ⟨rfl, rfl⟩

theorem addressPhase_nextKeepsSetup (s : State) : s.NextKeepsSetup (addressPhase s) := by
  refine forEach_nextKeepsSetup (fun k u => ?_) _ s
  unfold addressEntry
  split_ifs
  · exact visit_nextKeepsSetup _ _ u
  · exact State.nextKeepsSetup_next ⟨rfl, rfl⟩

theorem dispatchPhase_nextKeepsSetup (s : State) : s.NextKeepsSetup (dispatchPhase s) :=
  State.SameSetup.nextKeepsSetup ⟨rfl, rfl⟩ <|
    forEach_nextKeepsSetup (fun _ u => forEach_nextKeepsSetup (fun _ v => visit_nextKeepsSetup _ _ v) _ u) _ _

theorem countLane_nextKeepsSetup (c : UnitClass) (j : Nat) (s : State) : s.NextKeepsSetup (countLane c j s) := by
  unfold countLane
  split_ifs
  · exact visit_nextKeepsSetup _ _ s
  · exact State.nextKeepsSetup_next ⟨rfl, rfl⟩

theorem finishCompletions_nextKeepsSetup (s : State) : s.NextKeepsSetup (finishCompletions s) := by
  unfold finishCompletions
  dsimp only
  split_ifs <;> exact State.nextKeepsSetup_next ⟨rfl, rfl⟩

theorem countPhase_nextKeepsSetup (s : State) : s.NextKeepsSetup (countPhase s) := by
  refine State.NextKeepsSetup.andThen ?_ finishCompletions_nextKeepsSetup
  exact State.SameSetup.nextKeepsSetup ⟨rfl, rfl⟩ <|
    forEach_nextKeepsSetup (fun c u => forEach_nextKeepsSetup (countLane_nextKeepsSetup c) _ u) _ _

/-- One pass of the issue loop: a full ROB, a fetch out of bounds, a rejected record, or the instruction's turn. -/
theorem issueOne_nextKeepsSetup (s : State) : s.NextKeepsSetup (issueOne s) := by
  unfold issueOne
  split_ifs
  · exact State.nextKeepsSetup_next ⟨rfl, rfl⟩
  · split
    · exact State.nextKeepsSetup_next ⟨rfl, rfl⟩
    · split
      · exact State.nextKeepsSetup_next ⟨rfl, rfl⟩
      · exact visit_nextKeepsSetup _ _ s

theorem issueLoop_nextKeepsSetup (k : Nat) : ∀ s : State, s.NextKeepsSetup (issueLoop k s) := by
  induction k with
  | zero => exact fun s => State.nextKeepsSetup_next ⟨rfl, rfl⟩
  | succ k ih =>
    refine fun s => (issueOne_nextKeepsSetup s).andThen fun u => ?_
    split_ifs
    · exact State.nextKeepsSetup_next ⟨rfl, rfl⟩
    · exact ih u

theorem issuePhase_nextKeepsSetup (s : State) : s.NextKeepsSetup (issuePhase s) :=
  State.SameSetup.nextKeepsSetup ⟨rfl, rfl⟩ (issueLoop_nextKeepsSetup _ _)

theorem finalizePhase_nextKeepsSetup (s : State) : s.NextKeepsSetup (finalizePhase s) :=
  State.nextKeepsSetup_next ⟨rfl, rfl⟩

theorem tick_nextKeepsSetup (s : State) : s.NextKeepsSetup (tick s) := State.nextKeepsSetup_next ⟨rfl, rfl⟩

/-! ## The cycle and the step -/

theorem beforeIssue_nextKeepsSetup (s : State) : s.NextKeepsSetup (beforeIssue s) :=
  ((((commitPhase_nextKeepsSetup s).andThen writebackPhase_nextKeepsSetup).andThen addressPhase_nextKeepsSetup).andThen
    dispatchPhase_nextKeepsSetup).andThen countPhase_nextKeepsSetup

theorem fromIssue_nextKeepsSetup (s : State) : s.NextKeepsSetup (fromIssue s) :=
  ((issuePhase_nextKeepsSetup s).andThen finalizePhase_nextKeepsSetup).andThen tick_nextKeepsSetup

theorem stepBlock_nextKeepsSetup (s : State) : s.NextKeepsSetup (stepBlock s) := by
  unfold stepBlock
  split_ifs
  · refine State.NextKeepsSetup.andThen ?_ fromIssue_nextKeepsSetup
    exact State.SameSetup.nextKeepsSetup ⟨rfl, rfl⟩ (beforeIssue_nextKeepsSetup _)
  · exact State.nextKeepsSetup_next ⟨rfl, rfl⟩

theorem step_of_badConfiguration {s : State} (h : s.cfg.wf = false) : step s = .refused .badConfiguration := if_pos h

theorem step_of_emptyProgram {s : State} (hc : s.cfg.wf = true) (hp : s.prog = []) :
    step s = .refused .emptyProgram := by simp [step, stepChecked, hc, hp]

theorem step_of_malformed {s : State} (hc : s.cfg.wf = true) (hp : s.prog ≠ []) (hs : s.shaped = false) :
    step s = .fault .malformedState := by simp [step, stepChecked, hc, hp, hs]

theorem step_of_runnable {s : State} (h : s.Runnable) : step s = stepBlock s := by
  obtain ⟨hc, hp, hs⟩ := h
  simp [step, stepChecked, hc, hp, hs]

/-- A block that can step does, with its configuration and program. -/
theorem step_nextKeepsSetup {s : State} (h : s.Runnable) : s.NextKeepsSetup (step s) :=
  step_of_runnable h ▸ stepBlock_nextKeepsSetup s

/-- The four exclusive cases of a step, by the check that fails first. -/
theorem step_cases (s : State) :
    (s.cfg.wf = false ∧ step s = .refused .badConfiguration) ∨
    ((s.cfg.wf = true ∧ s.prog = []) ∧ step s = .refused .emptyProgram) ∨
    ((s.cfg.wf = true ∧ s.prog ≠ [] ∧ s.shaped = false) ∧ step s = .fault .malformedState) ∨
    (s.Runnable ∧ s.NextKeepsSetup (step s)) := by
  cases hc : s.cfg.wf
  · exact .inl ⟨rfl, step_of_badConfiguration hc⟩
  · by_cases hp : s.prog = []
    · exact .inr (.inl ⟨⟨rfl, hp⟩, step_of_emptyProgram hc hp⟩)
    · cases hs : s.shaped
      · exact .inr (.inr (.inl ⟨⟨rfl, hp, rfl⟩, step_of_malformed hc hp hs⟩))
      · exact .inr (.inr (.inr ⟨⟨hc, hp, hs⟩, step_nextKeepsSetup ⟨hc, hp, hs⟩⟩))

/-- Settles O40, from the four cases of a step: each fixes the answer, and their conditions exclude each other. -/
theorem onlyTheseStopTheModel : Obligations.OnlyTheseStopTheModel := by
  unfold Obligations.OnlyTheseStopTheModel
  intro s
  obtain ⟨hc, h⟩ | ⟨⟨hc, hp⟩, h⟩ | ⟨⟨hc, hp, hs⟩, h⟩ | ⟨⟨hc, hp, hs⟩, t, h, -⟩ := step_cases s
  · simp [State.Runnable, h, hc]
  · simp [State.Runnable, h, hc, hp]
  · simp [State.Runnable, h, hc, hp, hs]
  · simp [State.Runnable, h, hc, hp, hs]

/-- Settles O46: only a runnable block answers a next state, and every action of its phases keeps both fields. -/
theorem configurationNeverChanges : Obligations.ConfigurationNeverChanges := by
  unfold Obligations.ConfigurationNeverChanges
  intro s t h
  obtain ⟨-, h'⟩ | ⟨-, h'⟩ | ⟨-, h'⟩ | ⟨-, u, h', hu⟩ := step_cases s
  · cases h'.symm.trans h
  · cases h'.symm.trans h
  · cases h'.symm.trans h
  · cases h'.symm.trans h
    exact hu

end Sys2Proof.Machine
end

section
/-! PROOFS. The raw data of a state of the block, read through the accessors: an index past its array reads as the
reset value of the array's type, which is within every range, so a range can be stated of every index. -/

namespace Sys2Proof.Machine

/-! ## Arrays read with a default -/

theorem forall_getD_iff {α : Type} {P : α → Prop} {l : List α} {d : α} (hd : P d) :
    (∀ j : Nat, P (l[j]?.getD d)) ↔ ∀ x ∈ l, P x := by
  constructor
  · intro h x hx
    obtain ⟨j, hj, rfl⟩ := List.getElem_of_mem hx
    simpa [hj] using h j
  · intro h j
    cases hj : l[j]? with
    | none => exact hd
    | some x => exact h x (List.mem_of_getElem? hj)

theorem getD_set {α : Type} (l : List α) (j k : Nat) (x d : α) :
    (l.set j x)[k]?.getD d = if k = j ∧ j < l.length then x else l[k]?.getD d := by
  rw [List.getElem?_set]
  by_cases hk : j = k
  · subst hk
    by_cases hj : j < l.length <;> simp [hj]
  · simp [hk, Ne.symm hk]

theorem getD_map {α : Type} {f : α → α} {d : α} (hd : f d = d) (l : List α) (k : Nat) :
    (l.map f)[k]?.getD d = f (l[k]?.getD d) := by
  cases hk : l[k]? <;> simp [hk, hd]

/-! ## An accessor after an update, at every index -/

theorem PerPool.get_set {α : Type} (x : PerPool α) (p q : Pool) (v : α) :
    (x.set p v).get q = if q = p then v else x.get q := by
  by_cases h : q = p
  · subst h; simp
  · simp [h, PerPool.get_set_other x p q v h]

theorem PerClass.get_set {α : Type} (x : PerClass α) (c d : UnitClass) (v : α) :
    (x.set c v).get d = if d = c then v else x.get d := by
  by_cases h : d = c
  · subst h; simp
  · simp [h, PerClass.get_set_other x c d v h]

theorem State.entry_setEntry (s : State) (r q : RsRef) (x : RsEntry) :
    (s.setEntry r x).entry q = if q = r ∧ r.idx < (s.rs.get r.pool).length then x else s.entry q := by
  by_cases h : q = r
  · subst h
    simp [State.entry, State.setEntry, getD_set]
  · simp [h, State.entry_setEntry_other s r q x h]

theorem State.lane_setLane (s : State) (c d : UnitClass) (j k : Nat) (l : Lane) :
    (s.setLane c j l).lane d k = if (d = c ∧ k = j) ∧ j < (s.lanes.get c).length then l else s.lane d k := by
  by_cases h : d = c ∧ k = j
  · obtain ⟨rfl, rfl⟩ := h
    simp [State.lane, State.setLane, getD_set]
  · simp only [h, false_and, if_false]
    exact State.lane_setLane_other s c d j k l (by simpa using h)

theorem State.bypSlot_setByp (s : State) (j k : Nat) (b : BypSlot) :
    (s.setByp j b).bypSlot k = if k = j ∧ j < s.byp.length then b else s.bypSlot k := by
  simp [State.bypSlot, State.setByp, getD_set]

theorem State.reg_setReg (s : State) (r q : RegName) (e : RegEntry) :
    (s.setReg r e).reg q = if q = r then e else s.reg q := by
  by_cases h : q = r
  · subst h; simp
  · simp [h, State.reg_setReg_other s r q e h]

theorem State.entry_mapEntries {f : RsEntry → RsEntry} (hf : f RsEntry.empty = RsEntry.empty) (s : State) (q : RsRef) :
    (s.mapEntries f).entry q = f (s.entry q) := by
  simp only [State.entry, State.mapEntries_rs, PerPool.get_map, getD_map hf]

theorem State.length_setEntry (s : State) (r : RsRef) (x : RsEntry) (p : Pool) :
    ((s.setEntry r x).rs.get p).length = (s.rs.get p).length := by
  simp only [State.setEntry, PerPool.get_set]
  split_ifs with h
  · rw [List.length_set, h]
  · rfl

theorem State.length_mapEntries (s : State) (f : RsEntry → RsEntry) (p : Pool) :
    ((s.mapEntries f).rs.get p).length = (s.rs.get p).length := by simp

theorem State.length_setLane (s : State) (c : UnitClass) (j : Nat) (l : Lane) (d : UnitClass) :
    ((s.setLane c j l).lanes.get d).length = (s.lanes.get d).length := by
  simp only [State.setLane, PerClass.get_set]
  split_ifs with h
  · rw [List.length_set, h]
  · rfl

/-! ## Configurations -/

theorem Config.robSize_pos {c : Config} (h : c.wf = true) : 0 < c.robSize := by
  simp only [Config.wf, Bool.and_eq_true, decide_eq_true_eq] at h
  omega

theorem Config.rsSize_pos {c : Config} (h : c.wf = true) (p : Pool) : 0 < c.rsSize.get p := by
  simp only [Config.wf, Config.poolsOk, Bool.and_eq_true, decide_eq_true_eq] at h
  cases p <;> simp only [PerPool.get] <;> omega

theorem Config.lat_pos {c : Config} (h : c.wf = true) (d : UnitClass) : 0 < c.lat.get d := by
  simp only [Config.wf, PerClass.allPos, Bool.and_eq_true, decide_eq_true_eq] at h
  cases d <;> simp only [PerClass.get] <;> omega

/-! ## A state that can run, part by part -/

/-- `State.Runnable` (R8, R20 to R50) with every range stated through the accessors. -/
structure State.Fit (s : State) : Prop where
  wf : s.cfg.wf = true
  loaded : s.prog ≠ []
  regTag : ∀ r, (s.reg r).tag < s.cfg.robSize
  slotCount : s.rob.slots.length = s.cfg.robSize
  head : s.rob.head < s.cfg.robSize
  tail : s.rob.tail < s.cfg.robSize
  count : s.rob.count ≤ s.cfg.robSize
  stctr : ∀ u, (s.slot u).stctr.getD 0 ≤ s.cfg.lat.memory
  poolSize : ∀ p, (s.rs.get p).length = s.cfg.rsSize.get p
  entryTags : ∀ q, (s.entry q).inRange s.cfg.robSize = true
  laneCount : ∀ c, (s.lanes.get c).length = s.cfg.lanes.get c
  laneRange : ∀ c j, (s.lane c j).rs.inRange s.cfg = true ∧ (s.lane c j).ttl ≤ s.cfg.lat.get c
  bypCount : s.byp.length = s.cfg.bypassSize
  bypRange : ∀ j, (s.bypSlot j).rs.inRange s.cfg = true
  memWf : s.mem.wf = true
  memRange : ∀ c ∈ s.mem, c.1 < s.cfg.memSize

theorem RsEntry.empty_inRange {n : Nat} (h : 0 < n) : RsEntry.empty.inRange n = true := by
  simp [RsEntry.inRange, Operand.inRange, RsEntry.empty, h]

theorem RegBank.inRange_iff (b : RegBank) (n : Nat) : b.inRange n = true ↔ ∀ i : Reg, b[i.val].tag < n := by
  simp only [RegBank.inRange, List.all_eq_true, decide_eq_true_eq, Vector.mem_toList_iff]
  exact ⟨fun h i => h _ (Vector.getElem_mem i.isLt), fun h e he => by
    obtain ⟨i, hi, rfl⟩ := Vector.getElem_of_mem he
    exact h ⟨i, hi⟩⟩

theorem Pool.forall_iff {P : Pool → Prop} : (∀ p, P p) ↔ ∀ p ∈ Pool.all, P p :=
  ⟨fun h p _ => h p, fun h p => h p (by cases p <;> decide)⟩

theorem UnitClass.forall_iff {P : UnitClass → Prop} : (∀ c, P c) ↔ ∀ c ∈ UnitClass.all, P c :=
  ⟨fun h c _ => h c, fun h c => h c (by cases c <;> decide)⟩

theorem State.regs_inRange_iff (s : State) (n : Nat) :
    (∀ r, (s.reg r).tag < n) ↔ s.gpr.inRange n = true ∧ s.fpr.inRange n = true := by
  simp only [RegBank.inRange_iff]
  exact ⟨fun h => ⟨fun i => h (.gpr i), fun i => h (.fpr i)⟩, fun ⟨hg, hf⟩ r => by
    cases r with
    | gpr i => exact hg i
    | fpr i => exact hf i⟩

theorem State.poolsInRange_iff {s : State} (h : 0 < s.cfg.robSize) :
    Pool.all.all s.poolInRange = true ↔
      (∀ p, (s.rs.get p).length = s.cfg.rsSize.get p) ∧ ∀ q, (s.entry q).inRange s.cfg.robSize = true := by
  rw [List.all_eq_true, ← Pool.forall_iff]
  simp only [State.poolInRange, Bool.and_eq_true, beq_iff_eq, List.all_eq_true, forall_and,
    ← forall_getD_iff (P := fun e : RsEntry => e.inRange s.cfg.robSize = true) (RsEntry.empty_inRange h)]
  exact and_congr_right fun _ => ⟨fun hq q => hq q.pool q.idx, fun hq p k => hq ⟨p, k⟩⟩

theorem State.lanesInRange_iff {s : State} (h : s.cfg.wf = true) :
    UnitClass.all.all s.lanesInRange = true ↔
      (∀ c, (s.lanes.get c).length = s.cfg.lanes.get c) ∧
      ∀ c j, (s.lane c j).rs.inRange s.cfg = true ∧ (s.lane c j).ttl ≤ s.cfg.lat.get c := by
  have hd (c : UnitClass) : Lane.empty.rs.inRange s.cfg = true ∧ Lane.empty.ttl ≤ s.cfg.lat.get c := by
    simp [RsRef.inRange, Lane.empty, Config.rsSize_pos h]
  rw [List.all_eq_true, ← UnitClass.forall_iff, ← forall_and]
  refine forall_congr' fun c => ?_
  simp only [State.lanesInRange, Bool.and_eq_true, beq_iff_eq, List.all_eq_true, decide_eq_true_eq, State.lane]
  exact and_congr_right fun _ =>
    (forall_getD_iff (P := fun l : Lane => l.rs.inRange s.cfg = true ∧ l.ttl ≤ s.cfg.lat.get c) (hd c)).symm

theorem State.bypInRange_iff {s : State} (h : s.cfg.wf = true) :
    s.bypInRange = true ↔ s.byp.length = s.cfg.bypassSize ∧ ∀ j, (s.bypSlot j).rs.inRange s.cfg = true := by
  have hd : BypSlot.empty.rs.inRange s.cfg = true := by simp [RsRef.inRange, BypSlot.empty, Config.rsSize_pos h]
  simp only [State.bypInRange, Bool.and_eq_true, beq_iff_eq, List.all_eq_true,
    ← forall_getD_iff (P := fun b : BypSlot => b.rs.inRange s.cfg = true) hd, State.bypSlot]

theorem State.robInRange_iff (s : State) :
    s.rob.inRange s.cfg = true ↔ s.rob.slots.length = s.cfg.robSize ∧ s.rob.head < s.cfg.robSize ∧
      s.rob.tail < s.cfg.robSize ∧ s.rob.count ≤ s.cfg.robSize ∧ ∀ u, (s.slot u).stctr.getD 0 ≤ s.cfg.lat.memory := by
  simp only [Rob.inRange, Bool.and_eq_true, beq_iff_eq, decide_eq_true_eq, List.all_eq_true, and_assoc,
    ← forall_getD_iff (P := fun x : RobSlot => x.stctr.getD 0 ≤ s.cfg.lat.memory) (d := RobSlot.empty) (Nat.zero_le _),
    State.slot]

theorem State.runnable_iff_fit {s : State} : s.Runnable ↔ s.Fit := by
  constructor
  · rintro ⟨hwf, hprog, hs⟩
    simp only [State.shaped, Bool.and_eq_true, State.robInRange_iff, State.poolsInRange_iff (Config.robSize_pos hwf),
      State.lanesInRange_iff hwf, State.bypInRange_iff hwf, State.memInRange, List.all_eq_true, decide_eq_true_eq] at hs
    obtain ⟨⟨⟨⟨⟨hreg, hslots, hhead, htail, hcount, hstctr⟩, hpool, hentry⟩, hlane, hlaneR⟩, hbyp, hbypR⟩,
      hmem, hmemR⟩ := hs
    exact ⟨hwf, hprog, (s.regs_inRange_iff _).2 hreg, hslots, hhead, htail, hcount, hstctr, hpool, hentry, hlane,
      hlaneR, hbyp, hbypR, hmem, hmemR⟩
  · intro h
    refine ⟨h.wf, h.loaded, ?_⟩
    simp only [State.shaped, Bool.and_eq_true, State.robInRange_iff, State.poolsInRange_iff (Config.robSize_pos h.wf),
      State.lanesInRange_iff h.wf, State.bypInRange_iff h.wf, State.memInRange, List.all_eq_true, decide_eq_true_eq]
    exact ⟨⟨⟨⟨⟨(s.regs_inRange_iff _).1 h.regTag, h.slotCount, h.head, h.tail, h.count, h.stctr⟩, h.poolSize,
      h.entryTags⟩, h.laneCount, h.laneRange⟩, h.bypCount, h.bypRange⟩, h.memWf, h.memRange⟩

/-! ## One rule per update -/

/-- `t` has the configuration, the program, the registers, the tables and the memory of `s`: the two differ in scalar
registers only. -/
structure State.SameArrays (s t : State) : Prop where
  cfg : t.cfg = s.cfg
  prog : t.prog = s.prog
  gpr : t.gpr = s.gpr
  fpr : t.fpr = s.fpr
  rob : t.rob = s.rob
  rs : t.rs = s.rs
  lanes : t.lanes = s.lanes
  byp : t.byp = s.byp
  mem : t.mem = s.mem

namespace State.Fit

variable {s t : State}

theorem sameArrays (h : s.Fit) (e : s.SameArrays t) : t.Fit := by
  obtain ⟨cfg, prog, gpr, fpr, rob, rs, lanes, byp, mem⟩ := e
  cases s; cases t
  subst cfg prog gpr fpr rob rs lanes byp mem
  exact { h with }

theorem raise (h : s.Fit) (f : FaultCode) (pc addr : Word) : (s.raise f pc addr).Fit :=
  h.sameArrays ⟨rfl, rfl, rfl, rfl, rfl, rfl, rfl, rfl, rfl⟩

theorem setReg (h : s.Fit) (r : RegName) {e : RegEntry} (he : e.tag < s.cfg.robSize) : (s.setReg r e).Fit := by
  have hreg : ∀ q, ((s.setReg r e).reg q).tag < s.cfg.robSize := fun q => by
    rw [State.reg_setReg]
    split_ifs
    · exact he
    · exact h.regTag q
  cases r <;> exact { h with regTag := hreg }

theorem setSlot (h : s.Fit) (u : Nat) {x : RobSlot} (hx : x.stctr.getD 0 ≤ s.cfg.lat.memory) : (s.setSlot u x).Fit :=
  { h with
    slotCount := (List.length_set ..).trans h.slotCount
    stctr := fun v => by
      rw [State.slot_setSlot]
      split_ifs
      · exact hx
      · exact h.stctr v }

theorem setEntry (h : s.Fit) (r : RsRef) {x : RsEntry} (hx : x.inRange s.cfg.robSize = true) : (s.setEntry r x).Fit :=
  { h with
    poolSize := fun p => (s.length_setEntry r x p).trans (h.poolSize p)
    entryTags := fun q => by
      rw [State.entry_setEntry]
      split_ifs
      · exact hx
      · exact h.entryTags q }

theorem mapEntries (h : s.Fit) {f : RsEntry → RsEntry} (h0 : f RsEntry.empty = RsEntry.empty)
    (hf : ∀ e : RsEntry, e.inRange s.cfg.robSize = true → (f e).inRange s.cfg.robSize = true) : (s.mapEntries f).Fit :=
  { h with
    poolSize := fun p => (s.length_mapEntries f p).trans (h.poolSize p)
    entryTags := fun q => by
      rw [State.entry_mapEntries h0]
      exact hf _ (h.entryTags q) }

theorem setLane (h : s.Fit) (c : UnitClass) (j : Nat) {l : Lane} (hr : l.rs.inRange s.cfg = true)
    (ht : l.ttl ≤ s.cfg.lat.get c) : (s.setLane c j l).Fit :=
  { h with
    laneCount := fun d => (s.length_setLane c j l d).trans (h.laneCount d)
    laneRange := fun d k => by
      rw [State.lane_setLane]
      split_ifs with hd
      · obtain ⟨⟨rfl, -⟩, -⟩ := hd
        exact ⟨hr, ht⟩
      · exact h.laneRange d k }

theorem setByp (h : s.Fit) (j : Nat) {b : BypSlot} (hb : b.rs.inRange s.cfg = true) : (s.setByp j b).Fit :=
  { h with
    bypCount := (List.length_set ..).trans h.bypCount
    bypRange := fun k => by
      rw [State.bypSlot_setByp]
      split_ifs
      · exact hb
      · exact h.bypRange k }

/-- The ROB slots, the head and the tail where the array keeps its length and its store counters (R33, R109). -/
theorem rob (h : s.Fit) {r : Rob} (hl : r.slots.length = s.rob.slots.length) (hh : r.head < s.cfg.robSize)
    (ht : r.tail < s.cfg.robSize) (hc : r.count ≤ s.cfg.robSize)
    (hs : ∀ x ∈ r.slots, x.stctr.getD 0 ≤ s.cfg.lat.memory) : State.Fit { s with rob := r } :=
  { h with
    slotCount := hl.trans h.slotCount
    head := hh
    tail := ht
    count := hc
    stctr := (forall_getD_iff (P := fun x : RobSlot => x.stctr.getD 0 ≤ s.cfg.lat.memory) (Nat.zero_le _)).2 hs }

theorem memory (h : s.Fit) {m : Memory} (hw : m.wf = true) (hr : ∀ c ∈ m, c.1 < s.cfg.memSize) :
    State.Fit { s with mem := m } :=
  { h with
    memWf := hw
    memRange := hr }

end State.Fit

end Sys2Proof.Machine
end

section
/-! PROOFS. What the turns of W, X1, X2 and X3 can do, said once: each is a sequence of the elementary changes of
`ExecChange`, so a property those changes keep is kept by each of the four phases (41:R122 to R139, 42:R140 to R155). -/

namespace Sys2Proof.Machine

/-! ## The table behind an instruction -/

/-- The instruction a record's opcode names and the row of the opcode map say the same (R86, R87). -/
theorem Record.row_of_instr? {r : Record} {i : Instr} (h : r.instr? = some i) :
    ∃ row, opRow? r.op = some row ∧ row.cls = classOf? i ∧ row.isBranch = isBranch i := by
  unfold Record.instr? at h
  unfold opRow?
  split at h <;> cases h
  all_goals exact ⟨_, congrArg (opTable[·]?) ‹_›, rfl, rfl⟩

theorem Record.unitClass?_of_instr? {r : Record} {i : Instr} (h : r.instr? = some i) : r.unitClass? = classOf? i := by
  obtain ⟨row, hrow, hc, -⟩ := Record.row_of_instr? h
  simp [Record.unitClass?, hrow, hc]

theorem Record.opIsBranch_of_instr? {r : Record} {i : Instr} (h : r.instr? = some i) : r.opIsBranch = isBranch i := by
  obtain ⟨row, hrow, -, hb⟩ := Record.row_of_instr? h
  simp [Record.opIsBranch, hrow, hb]

/-! ## A turn -/

/-- `s` with the turn at `τ`. -/
def State.withTurn (s : State) (τ : Turn) : State := { s with turn := τ }

/-- A visit gives the record's instruction its turn, or raises the fault of an unknown opcode (log entry 13). -/
theorem visit_cases {p : Phase} {r : Record} {s t : State} (h : visit p r s = .next t) :
    (∃ i, r.instr? = some i ∧ exec i (s.atPhase p) = .next t) ∨ t = (s.atPhase p).raise .unknownOpcode r.pc 0 := by
  unfold visit at h
  split at h
  next i hi => exact .inl ⟨i, hi, h⟩
  next => cases h; exact .inr rfl

/-! ## The elementary changes of the execution phases -/

/-- An elementary change W, X1, X2 or X3 makes. It says which part of the state is written and under which guard; the
words computed and the operand of an address are left open. -/
inductive ExecChange (s : State) : State → Prop
  /-- The turn moves, or a variable of a phase is written (log entry 1). -/
  | turn (τ : Turn) : ExecChange s (s.withTurn τ)
  /-- A fault, of the kinds these phases raise. -/
  | raise {f : FaultCode} (pc addr : Word) (hf : f ≠ .noFault) (hu : f ≠ .robUnderflow) :
      ExecChange s (s.raise f pc addr)
  /-- W: the result of a done slot (R150). -/
  | broadcast {l : SlotRef} (hd : (s.slotView l).done = true) :
      ExecChange s (s.writeResult l (s.entry (s.slotView l).rs).instr.opIsBranch)
  /-- X1: the address of a `LOAD_B` entry (R122). -/
  | address (k : Nat) (imm : Word) (st : Bool) : ExecChange s (s.generateAddress k imm st)
  /-- X2: an offered entry takes the lowest free lane of its class (R131). -/
  | startLane {c : UnitClass} {ref : RsRef} {j : Nat} (ho : s.Offered c ref) (hi : ref.inRange s.cfg = true)
      (hj : s.freeLane c = some j) :
      ExecChange s ((s.setLane c j ⟨true, ref, s.cfg.lat.get c, 0, false, false⟩).markExecuting ref)
  /-- X2: an offered memory entry takes the lowest free bypass slot (R132). -/
  | startBypass {ref : RsRef} {j : Nat} (v : Word) (ho : s.Offered .memory ref) (hi : ref.inRange s.cfg = true)
      (hj : s.freeByp = some j) : ExecChange s ((s.setByp j ⟨true, ref, v, false⟩).markExecuting ref)
  /-- X3: a lane counts down and has cycles to go (R140). -/
  | count {c : UnitClass} {j : Nat} (hb : (s.lane c j).busy = true) (hd : (s.lane c j).done = false)
      (ht : (s.lane c j).ttl - 1 ≠ 0) : ExecChange s (s.setLane c j { s.lane c j with ttl := (s.lane c j).ttl - 1 })
  /-- X3: a lane reaches zero with its result (R140). -/
  | finish {c : UnitClass} {j : Nat} (v : Word) (m : Bool) (hb : (s.lane c j).busy = true)
      (hd : (s.lane c j).done = false) (ht : (s.lane c j).ttl - 1 = 0) : ExecChange s (s.laneDone c j v m)
  /-- X3: a lane reaches zero and its instruction faults (R141, R143). -/
  | laneFault {c : UnitClass} {j : Nat} {f : FaultCode} (pc addr : Word) (hb : (s.lane c j).busy = true)
      (hf : f ≠ .noFault) (hu : f ≠ .robUnderflow) : ExecChange s (s.laneFaults c j f pc addr)
  /-- X3: the bypass slots filled this cycle are done (R144). -/
  | bypassDone : ExecChange s { s with byp := s.byp.map BypSlot.finish }

/-- Any number of elementary changes. -/
abbrev ExecRun : State → State → Prop := Relation.ReflTransGen ExecChange

/-- A property every elementary change keeps is kept by any number of them. -/
theorem ExecRun.keeps {P : State → Prop} (hP : ∀ s t, P s → ExecChange s t → P t) {s t : State} (h : ExecRun s t)
    (hs : P s) : P t := by
  induction h with
  | refl => exact hs
  | tail _ hc ih => exact hP _ _ ih hc

theorem ExecChange.run {s t : State} (h : ExecChange s t) : ExecRun s t := .single h

theorem ExecRun.turn (s : State) (τ : Turn) : ExecRun s (s.withTurn τ) := (ExecChange.turn τ).run

/-- A loop whose passes are runs is a run. -/
theorem forEach_execRun {α : Type} {f : α → State → Result} {l : List α} {s t : State}
    (hf : ∀ x ∈ l, ∀ u v, ExecRun s u → f x u = .next v → ExecRun u v) (h : forEach f l s = .next t) : ExecRun s t := by
  suffices ∀ l', l' ⊆ l → ∀ u, ExecRun s u → forEach f l' u = .next t → ExecRun s t from
    this l (List.Subset.refl l) s .refl h
  intro l'
  induction l' with
  | nil => intro _ u hu h; cases h; exact hu
  | cons x l' ih =>
    intro hl u hu h
    obtain ⟨v, hv, hvt⟩ := andThen_eq_next h
    have hsv : ExecRun s v := hu.trans (hf x (hl List.mem_cons_self) u v hu hv)
    obtain ⟨-, rfl⟩ | ⟨-, hvt⟩ := hvt
    · exact hsv
    · exact ih (fun y hy => hl (List.mem_cons_of_mem x hy)) v hsv hvt

/-- A visit is a run where every instruction's action is. -/
theorem visit_execRun {p : Phase} {r : Record} {s t : State}
    (hx : ∀ i, r.instr? = some i → exec i (s.atPhase p) = .next t → ExecRun (s.atPhase p) t)
    (h : visit p r s = .next t) : ExecRun s t := by
  refine (ExecRun.turn s (s.atPhase p).turn).trans ?_
  obtain ⟨i, hi, h⟩ | rfl := visit_cases h
  · exact hx i hi h
  · exact (ExecChange.raise _ _ (by decide) (by decide)).run

/-! ## W and X1 -/

theorem writebackSlot_run {l : SlotRef} {s t : State} (h : writebackSlot l s = .next t) : ExecRun s t := by
  unfold writebackSlot at h
  split_ifs at h with hd
  · refine visit_execRun (fun i hi h => ?_) h
    cases (exec_at_writeback rfl i).symm.trans h
    split_ifs
    · exact .refl
    · exact Record.opIsBranch_of_instr? hi ▸ (ExecChange.broadcast (s := s.atPhase (.writeback l)) hd).run
  · cases h; exact .refl

theorem addressEntry_run {k : Nat} {s t : State} (h : addressEntry k s = .next t) : ExecRun s t := by
  unfold addressEntry at h
  split_ifs at h
  · refine visit_execRun (fun i _ h => ?_) h
    cases (exec_at_address rfl i).symm.trans h
    split_ifs
    · exact (ExecChange.address k _ _).run
    · exact .refl
  · cases h; exact .refl

theorem writebackPhase_run {s t : State} (h : writebackPhase s = .next t) : ExecRun s t :=
  forEach_execRun (fun _ _ _ _ _ => writebackSlot_run) h

theorem addressPhase_run {s t : State} (h : addressPhase s = .next t) : ExecRun s t :=
  forEach_execRun (fun _ _ _ _ _ => addressEntry_run) h

/-! ## X3 -/

theorem accessFault_ne {cfg : Config} {a : Word} {f : FaultCode} (h : accessFault cfg a = some f) :
    f ≠ .noFault ∧ f ≠ .robUnderflow := by
  unfold accessFault at h
  split_ifs at h <;> cases h <;> decide

theorem divide_error {sg : Bool} {a b : Word} {f : FaultCode} (h : divide sg a b = .error f) : f = .divFault := by
  unfold divide at h
  split_ifs at h <;> cases h <;> rfl

/-- What a finished countdown computes is a result, or a fault of the instruction; a load counts its completion. -/
theorem computes_run {s : State} {c : UnitClass} {j : Nat} (hb : (s.lane c j).busy = true)
    (hd : (s.lane c j).done = false) (ht : (s.lane c j).ttl - 1 = 0) (i : Instr) (e : RsEntry) :
    ExecRun s (computes i c j e (s.setLane c j { s.lane c j with ttl := 0 })) := by
  have hfinish (v : Word) (m : Bool) : ExecRun s ((s.setLane c j { s.lane c j with ttl := 0 }).finishLane c j v m) := by
    rw [State.finishLane_at_zero hb]
    exact (ExecChange.finish v m hb hd ht).run
  have hfault (f : FaultCode) (pc addr : Word) (hf : f ≠ .noFault ∧ f ≠ .robUnderflow) :
      ExecRun s ((s.setLane c j { s.lane c j with ttl := 0 }).raise f pc addr) :=
    (ExecChange.laneFault pc addr hb hf.1 hf.2).run
  unfold computes
  split_ifs
  · unfold State.finishLoad State.memRead
    cases hm : accessFault (s.setLane c j { s.lane c j with ttl := 0 }).cfg e.addr with
    | some f => exact hfault f _ _ (accessFault_ne hm)
    | none => exact (hfinish _ false).trans (ExecRun.turn _ _)
  · exact hfinish _ _
  · exact hfault .unknownOpcode _ _ (by decide)
  · split
    · cases hx : divide (s.setLane c j { s.lane c j with ttl := 0 }).cfg.divSigned e.op1.value e.op2.value with
      | ok v => exact hfinish v false
      | error f => exact hfault f _ _ (divide_error hx ▸ by decide)
    · exact hfinish _ false

theorem countLane_run {c : UnitClass} {j : Nat} {s t : State} (h : countLane c j s = .next t) : ExecRun s t := by
  unfold countLane at h
  split_ifs at h with hl
  · obtain ⟨hb, hd⟩ : (s.lane c j).busy = true ∧ (s.lane c j).done = false := by simpa using hl
    refine visit_execRun (fun i _ h => ?_) h
    cases (exec_at_complete rfl i).symm.trans h
    by_cases ht : (s.lane c j).ttl - 1 = 0
    · rw [State.countDown_last (s := s.atPhase (.complete c j)) hb hd ht]
      exact computes_run (s := s.atPhase (.complete c j)) hb hd ht i _
    · rw [State.countDown_more (s := s.atPhase (.complete c j)) hb hd ht]
      exact (ExecChange.count (s := s.atPhase (.complete c j)) hb hd ht).run
  · cases h; exact .refl

theorem finishCompletions_run {s t : State} (h : finishCompletions s = .next t) : ExecRun s t := by
  unfold finishCompletions at h
  dsimp only at h
  refine (ExecChange.bypassDone (s := s)).run.trans ?_
  split_ifs at h <;> cases h
  · exact (ExecChange.raise _ _ (by decide) (by decide)).run
  · exact .refl

theorem andThen_execRun {o : Result} {f : State → Result} {s t : State} (ho : ∀ u, o = .next u → ExecRun s u)
    (hf : ∀ u v, f u = .next v → ExecRun u v) (h : andThen o f = .next t) : ExecRun s t := by
  obtain ⟨u, hu, ⟨-, rfl⟩ | ⟨-, h⟩⟩ := andThen_eq_next h
  · exact ho _ hu
  · exact (ho u hu).trans (hf u t h)

theorem countPhase_run {s t : State} (h : countPhase s = .next t) : ExecRun s t := by
  refine andThen_execRun (fun u hu => ?_) (fun _ _ => finishCompletions_run) h
  refine (ExecRun.turn s _).trans (forEach_execRun (fun c _ v w _ h => ?_) hu)
  exact forEach_execRun (fun j _ _ _ _ => countLane_run) h

end Sys2Proof.Machine
end

section
/-! PROOFS. What the execution phases leave alone: the ring and the records of its slots, the busy entries' records and
tags, the registers, memory, the fetch pointers and the counters (40:R101, 42:R161, 43:R165, 10:R30, R36). -/

namespace Sys2Proof.Machine

/-- `t` has the ring of `s`: the pointers, and of each slot whether it is live and its record. -/
structure State.SameRing (s t : State) : Prop where
  cfg : t.cfg = s.cfg
  head : t.rob.head = s.rob.head
  tail : t.rob.tail = s.rob.tail
  count : t.rob.count = s.rob.count
  live : ∀ u, (t.slot u).live = (s.slot u).live
  instr : ∀ u, (t.slot u).instr = (s.slot u).instr

/-- `t` has the reservation-station entries of `s` that are busy, with their records and own tags. -/
structure State.SameEntries (s t : State) : Prop where
  busy : ∀ q, (t.entry q).busy = (s.entry q).busy
  entryInstr : ∀ q, (t.entry q).instr = (s.entry q).instr
  tagD : ∀ q, (t.entry q).tagD = (s.entry q).tagD

/-- What no elementary change of the execution phases writes. -/
structure State.ExecFrame (s t : State) : Prop extends s.SameRing t, s.SameEntries t where
  prog : t.prog = s.prog
  gpr : t.gpr = s.gpr
  fpr : t.fpr = s.fpr
  pc : t.pc = s.pc
  mem : t.mem = s.mem
  memBlock : t.memBlock = s.memBlock
  cycle : t.cycle = s.cycle
  committed : t.committed = s.committed
  nextId : t.nextId = s.nextId
  fault : t.fault = s.fault ∨ (t.fault ≠ .noFault ∧ t.fault ≠ .robUnderflow)

/-- A ROB slot with the same state of allocation. -/
structure RobSlot.SameRecord (x y : RobSlot) : Prop where
  live : y.live = x.live
  instr : y.instr = x.instr

/-- A reservation-station entry of the same instruction. -/
structure RsEntry.SameRecord (x y : RsEntry) : Prop where
  busy : y.busy = x.busy
  instr : y.instr = x.instr
  tagD : y.tagD = x.tagD

namespace State.SameRing

variable {s t : State}

theorem refl (s : State) : s.SameRing s := ⟨rfl, rfl, rfl, rfl, fun _ => rfl, fun _ => rfl⟩

theorem trans {u : State} (h : s.SameRing t) (h' : t.SameRing u) : s.SameRing u :=
  ⟨h'.cfg.trans h.cfg, h'.head.trans h.head, h'.tail.trans h.tail, h'.count.trans h.count,
    fun v => (h'.live v).trans (h.live v), fun v => (h'.instr v).trans (h.instr v)⟩

theorem ofRob (hc : t.cfg = s.cfg) (hr : t.rob = s.rob) : s.SameRing t := by
  have hs : t.slot = s.slot := by funext u; simp only [State.slot, hr]
  exact ⟨hc, by rw [hr], by rw [hr], by rw [hr], fun u => by rw [hs], fun u => by rw [hs]⟩

theorem setSlot (s : State) (u : Nat) {x : RobSlot} (hx : (s.slot u).SameRecord x) : s.SameRing (s.setSlot u x) :=
  ⟨rfl, rfl, rfl, rfl,
    fun v => by rw [State.slot_setSlot]; split_ifs with h; exacts [h.1 ▸ hx.live, rfl],
    fun v => by rw [State.slot_setSlot]; split_ifs with h; exacts [h.1 ▸ hx.instr, rfl]⟩

end State.SameRing

namespace State.SameEntries

variable {s t : State}

theorem trans {u : State} (h : s.SameEntries t) (h' : t.SameEntries u) : s.SameEntries u :=
  ⟨fun v => (h'.busy v).trans (h.busy v), fun v => (h'.entryInstr v).trans (h.entryInstr v),
    fun v => (h'.tagD v).trans (h.tagD v)⟩

theorem ofRs (hr : t.rs = s.rs) : s.SameEntries t := by
  have hs : t.entry = s.entry := by funext u; simp only [State.entry, hr]
  exact ⟨fun u => by rw [hs], fun u => by rw [hs], fun u => by rw [hs]⟩

theorem ofEntry (h : ∀ q, (s.entry q).SameRecord (t.entry q)) : s.SameEntries t :=
  ⟨fun q => (h q).busy, fun q => (h q).instr, fun q => (h q).tagD⟩

end State.SameEntries

namespace State.ExecFrame

variable {s t : State}

theorem refl (s : State) : s.ExecFrame s :=
  ⟨.refl s, .ofRs rfl, rfl, rfl, rfl, rfl, rfl, rfl, rfl, rfl, rfl, .inl rfl⟩

theorem trans {u : State} (h : s.ExecFrame t) (h' : t.ExecFrame u) : s.ExecFrame u where
  toSameRing := h.toSameRing.trans h'.toSameRing
  toSameEntries := h.toSameEntries.trans h'.toSameEntries
  prog := h'.prog.trans h.prog
  gpr := h'.gpr.trans h.gpr
  fpr := h'.fpr.trans h.fpr
  pc := h'.pc.trans h.pc
  mem := h'.mem.trans h.mem
  memBlock := h'.memBlock.trans h.memBlock
  cycle := h'.cycle.trans h.cycle
  committed := h'.committed.trans h.committed
  nextId := h'.nextId.trans h.nextId
  fault := h'.fault.elim (fun e => e ▸ h.fault) .inr

theorem turn (s : State) (τ : Turn) : s.ExecFrame (s.withTurn τ) :=
  ⟨.ofRob rfl rfl, .ofRs rfl, rfl, rfl, rfl, rfl, rfl, rfl, rfl, rfl, rfl, .inl rfl⟩

theorem raise (s : State) {f : FaultCode} (pc addr : Word) (hf : f ≠ .noFault) (hu : f ≠ .robUnderflow) :
    s.ExecFrame (s.raise f pc addr) :=
  ⟨.ofRob rfl rfl, .ofRs rfl, rfl, rfl, rfl, rfl, rfl, rfl, rfl, rfl, rfl, .inr ⟨hf, hu⟩⟩

theorem lanes (s : State) (x : PerClass (List Lane)) : s.ExecFrame { s with lanes := x } :=
  ⟨.ofRob rfl rfl, .ofRs rfl, rfl, rfl, rfl, rfl, rfl, rfl, rfl, rfl, rfl, .inl rfl⟩

theorem byp (s : State) (x : List BypSlot) : s.ExecFrame { s with byp := x } :=
  ⟨.ofRob rfl rfl, .ofRs rfl, rfl, rfl, rfl, rfl, rfl, rfl, rfl, rfl, rfl, .inl rfl⟩

theorem setSlot (s : State) (u : Nat) {x : RobSlot} (hx : (s.slot u).SameRecord x) : s.ExecFrame (s.setSlot u x) :=
  ⟨.setSlot s u hx, .ofRs rfl, rfl, rfl, rfl, rfl, rfl, rfl, rfl, rfl, rfl, .inl rfl⟩

theorem setEntry (s : State) (q : RsRef) {x : RsEntry} (hx : (s.entry q).SameRecord x) :
    s.ExecFrame (s.setEntry q x) := by
  refine ⟨.ofRob rfl rfl, .ofEntry fun r => ?_, rfl, rfl, rfl, rfl, rfl, rfl, rfl, rfl, rfl, .inl rfl⟩
  rw [State.entry_setEntry]
  split_ifs with h
  · exact h.1 ▸ hx
  · exact ⟨rfl, rfl, rfl⟩

theorem mapEntries (s : State) {f : RsEntry → RsEntry} (h0 : f RsEntry.empty = RsEntry.empty)
    (hf : ∀ e : RsEntry, e.SameRecord (f e)) : s.ExecFrame (s.mapEntries f) := by
  refine ⟨.ofRob rfl rfl, .ofEntry fun r => ?_, rfl, rfl, rfl, rfl, rfl, rfl, rfl, rfl, rfl, .inl rfl⟩
  rw [State.entry_mapEntries h0]
  exact hf _

theorem freeSlot (s : State) (l : SlotRef) : s.ExecFrame (s.freeSlot l) := by
  cases l
  · exact lanes s _
  · exact byp s _

theorem markExecuting (s : State) (ref : RsRef) : s.ExecFrame (s.markExecuting ref) := by
  rw [State.markExecuting_eq]
  refine trans (setEntry s ref ?_) (setSlot _ _ ?_)
  · exact ⟨rfl, rfl, rfl⟩
  · exact ⟨rfl, rfl⟩

end State.ExecFrame

theorem RsEntry.hear_sameRecord (e : RsEntry) (t : Nat) (v : Word) : e.SameRecord (e.hear t v) := by
  unfold RsEntry.hear
  split_ifs <;> exact ⟨rfl, rfl, rfl⟩

@[simp] theorem State.entry_hearAll (s : State) (t : Nat) (v : Word) (q : RsRef) :
    (s.mapEntries fun e => e.hear t v).entry q = (s.entry q).hear t v :=
  State.entry_mapEntries (f := fun e => e.hear t v) rfl s q

theorem State.ExecFrame.hearAll (s : State) (t : Nat) (v : Word) : s.ExecFrame (s.mapEntries fun e => e.hear t v) :=
  .mapEntries s (f := fun e => e.hear t v) rfl fun e => e.hear_sameRecord t v

/-- Writeback of a slot as a chain of updates, each with the words it had before (R150 to R153). -/
theorem State.writeResult_eq (s : State) (l : SlotRef) (b : Bool) :
    s.writeResult l b =
      (((s.mapEntries fun e => e.hear (s.tagOf l) (s.slotView l).result).setSlot (s.tagOf l)
          ((s.slot (s.tagOf l)).hear (s.slotView l).result (if b then some (s.slotView l).misPred else none)
            s.now)).setEntry (s.slotView l).rs
          { (s.entry (s.slotView l).rs).hear (s.tagOf l) (s.slotView l).result with remove := true }).freeSlot l := by
  rw [← State.entry_hearAll]
  rfl

theorem State.writeResult_execFrame (s : State) (l : SlotRef) (b : Bool) : s.ExecFrame (s.writeResult l b) := by
  rw [State.writeResult_eq]
  refine .trans (.trans (.trans (.hearAll s _ _) (.setSlot _ _ ?_)) (.setEntry _ _ ?_)) (.freeSlot _ l)
  · exact ⟨rfl, rfl⟩
  · rw [State.entry_setSlot, State.entry_hearAll]
    exact ⟨rfl, rfl, rfl⟩

theorem State.generateAddress_execFrame (s : State) (k : Nat) (imm : Word) (st : Bool) :
    s.ExecFrame (s.generateAddress k imm st) := by
  cases h : (s.entry ⟨.loadB, k⟩).wantsAddress
  · rw [State.generateAddress_skip h]
    exact .refl s
  · cases st
    · rw [State.generateAddress_load h]
      exact .setEntry s _ ⟨rfl, rfl, rfl⟩
    · rw [State.generateAddress_store h]
      refine .trans (.setEntry s _ ?_) (.setSlot _ _ ?_)
      · exact ⟨rfl, rfl, rfl⟩
      · exact ⟨rfl, rfl⟩

theorem ExecChange.frame {s t : State} (h : ExecChange s t) : s.ExecFrame t := by
  cases h with
  | turn τ => exact .turn s τ
  | raise pc addr hf hu => exact .raise s pc addr hf hu
  | broadcast hd => exact s.writeResult_execFrame _ _
  | address k imm st => exact s.generateAddress_execFrame k imm st
  | startLane ho hi hj => exact (State.ExecFrame.lanes s _).trans (.markExecuting _ _)
  | startBypass v ho hi hj => exact (State.ExecFrame.byp s _).trans (.markExecuting _ _)
  | count hb hd ht => exact .lanes s _
  | finish v m hb hd ht => exact .lanes s _
  | laneFault pc addr hb hf hu => exact (State.ExecFrame.lanes s _).trans (.raise _ pc addr hf hu)
  | bypassDone => exact .byp s _

theorem ExecRun.frame {s t : State} (h : ExecRun s t) : s.ExecFrame t :=
  h.keeps (fun _ _ hu hc => hu.trans hc.frame) (.refl s)

/-! ## X2 -/

theorem State.offered_of_eligible {s : State} {c : UnitClass} {ref : RsRef} (hp : ref.pool = c.pool)
    (hc : (s.entry ref).instr.unitClass? = some c) (he : (s.entry ref).eligible = true) : s.Offered c ref := by
  simp only [RsEntry.eligible, Bool.and_eq_true, Bool.not_eq_true'] at he
  obtain ⟨⟨⟨hb, hx⟩, h1⟩, h2⟩ := he
  exact ⟨hp, hc, hb, hx, h1, h2⟩

section dispatch

variable {s : State} {c : UnitClass} {ref : RsRef} (hi : ref.inRange s.cfg = true)

include hi

theorem State.dispatchTimed_run (ho : s.Offered c ref) : ExecRun s (s.dispatchTimed c ref) := by
  cases hj : s.freeLane c with
  | none => rw [State.dispatchTimed_none hj]
  | some j => rw [State.dispatchTimed_some hj]; exact (ExecChange.startLane ho hi hj).run

theorem State.dispatchBypass_run (ho : s.Offered .memory ref) (v : Word) : ExecRun s (s.dispatchBypass ref v) := by
  cases hj : s.freeByp with
  | none => rw [State.dispatchBypass_none hj]
  | some j => rw [State.dispatchBypass_some hj]; exact (ExecChange.startBypass v ho hi hj).run

theorem State.dispatchLoad_run (ho : (s.entry ref).eligible = true → s.Offered .memory ref) :
    ExecRun s (s.dispatchLoad ref) := by
  obtain ⟨-, h⟩ | ⟨he, ⟨-, h⟩ | ⟨-, h⟩ | ⟨v, -, h⟩ | ⟨-, h⟩⟩ := s.dispatchLoad_cases ref <;> rw [h]
  · exact (ExecChange.raise _ _ (by decide) (by decide)).run
  · exact State.dispatchBypass_run hi (ho he) v
  · obtain ⟨h, -⟩ | ⟨j, -, -, hj, h⟩ := s.dispatchMemory_cases ref <;> rw [h]
    exact (ExecChange.startLane (ho he) hi hj).run.trans (ExecRun.turn _ _)

end dispatch

/-- A dispatch turn of an entry of its class is a run: it waits, fails its scan, or starts (R131 to R133). -/
theorem dispatchEntry_run {c : UnitClass} {ref : RsRef} {s t : State} (hp : ref.pool = c.pool)
    (hi : ref.inRange s.cfg = true) (hc : (s.entry ref).instr.unitClass? = some c)
    (h : dispatchEntry ref s = .next t) : ExecRun s t := by
  refine visit_execRun (fun i hir h => ?_) h
  have hci : classOf? i = some c := (Record.unitClass?_of_instr? hir).symm.trans hc
  have hmem (hm : isLoad i = true ∨ isStore i = true) : c = .memory := by
    cases i <;> simp_all [isLoad, isStore, classOf?]
  have hoff (he : ((s.atPhase (.dispatch ref)).entry ref).eligible = true) :=
    State.offered_of_eligible (s := s.atPhase (.dispatch ref)) hp hc he
  have hi : ref.inRange (s.atPhase (.dispatch ref)).cfg = true := hi
  rw [exec_at_dispatch (s.atPhase_phase _), hci] at h
  cases h
  dsimp only
  split_ifs with hl hs
  · obtain rfl := hmem (.inl hl)
    exact State.dispatchLoad_run hi hoff
  · obtain rfl := hmem (.inr hs)
    unfold State.dispatchStore
    split_ifs with he
    · exact State.dispatchBypass_run hi (hoff he) _
    · exact .refl
  · unfold State.dispatchAlu
    split_ifs with he
    · exact State.dispatchTimed_run hi (hoff he)
    · exact .refl

theorem State.mem_entriesOldestFirst {s : State} {c : UnitClass} {ref : RsRef} (h : ref ∈ s.entriesOldestFirst c) :
    ref.pool = c.pool ∧ ref.inRange s.cfg = true ∧ (s.entry ref).instr.unitClass? = some c := by
  simp only [State.entriesOldestFirst, State.entriesOfTag, List.mem_flatMap, List.mem_filter, List.mem_map,
    List.mem_range, Bool.and_eq_true, beq_iff_eq] at h
  obtain ⟨t, -, ⟨k, hk, rfl⟩, ⟨-, hc⟩, -⟩ := h
  exact ⟨rfl, by simpa [RsRef.inRange] using hk, hc⟩

theorem dispatchClass_run {c : UnitClass} {s t : State} (h : dispatchClass c s = .next t) : ExecRun s t := by
  refine forEach_execRun (fun ref href u v hu h => ?_) h
  obtain ⟨hp, hi, hc⟩ := State.mem_entriesOldestFirst href
  have hf := hu.frame
  exact dispatchEntry_run hp (hf.cfg ▸ hi) (hf.entryInstr ref ▸ hc) h

theorem dispatchPhase_run {s t : State} (h : dispatchPhase s = .next t) : ExecRun s t :=
  (ExecRun.turn s _).trans (forEach_execRun (fun _ _ _ _ _ => dispatchClass_run) h)

end Sys2Proof.Machine
end

section
/-! PROOFS. What C and the issue stage can do, said once, and a property every elementary change of a step keeps
(43:R160 to R172, 40:R103 to R114, 43:R180). -/

namespace Sys2Proof.Machine

/-! ## C -/

/-- What C leaves of `s`, in which the turn is the head's (R160 to R164, R170). -/
inductive CommitOutcome (s : State) : State → Prop
  /-- The ROB is empty, the head is not ready, or its record has no action in C. -/
  | stays : CommitOutcome s s
  | unknown (pc : Word) : CommitOutcome s (s.raise .unknownOpcode pc 0)
  /-- A result or an untaken branch: the destination is written, if there is one, and the head popped (R162, R163). -/
  | retires (hr : s.headReady = true) :
      CommitOutcome s (s.stampCommit.commitReg (destOfRecord s.headSlot.instr)).popAndCount
  /-- A taken branch (R163, R170). -/
  | squashes (hr : s.headReady = true) (hb : s.headSlot.instr.opIsBranch = true) (hm : s.headSlot.misPred = true) :
      CommitOutcome s ({ s.stampCommit with committed := s.stampCommit.committed + 1 }.squash s.headSlot.value)
  /-- A store counts down (R164). -/
  | holds (hr : s.headReady = true) : CommitOutcome s s.stampCommit.storeCountdown
  /-- A store's last commit cycle: its word is written and the head popped, or its access faults (R164). -/
  | stores (hr : s.headReady = true) (hd : destOfRecord s.headSlot.instr = none) :
      CommitOutcome s s.stampCommit.storeCountdown.storeWrite

/-- The stamp changes the head's stage marker and time only. -/
theorem State.headSlot_stampCommit_fields (s : State) :
    ∃ st ts, s.stampCommit.headSlot = { s.headSlot with stage := st, ts := ts } := by
  obtain h | h := s.stampCommit_cases <;> rw [h]
  · exact ⟨_, _, rfl⟩
  · unfold State.headSlot
    rw [State.setSlot_head, State.slot_setSlot]
    split_ifs
    · exact ⟨_, _, rfl⟩
    · exact ⟨_, _, rfl⟩

theorem State.commitBranch_outcome {s : State} (hb : s.headSlot.instr.opIsBranch = true)
    (hd : destOfRecord s.headSlot.instr = none) : CommitOutcome s s.commitBranch := by
  cases hr : s.headReady
  · rw [State.commitBranch_stall hr]
    exact .stays
  · obtain ⟨st, ts, hx⟩ := s.headSlot_stampCommit_fields
    unfold State.commitBranch
    simp only [hr, if_true, hx]
    split_ifs with hm
    · exact .squashes hr hb hm
    · have h := CommitOutcome.retires hr
      rw [hd] at h
      exact h

theorem State.commitStore_outcome {s : State} (hd : destOfRecord s.headSlot.instr = none) :
    CommitOutcome s s.commitStore := by
  cases hr : s.headReady
  · rw [State.commitStore_stall hr]
    exact .stays
  · rw [State.commitStore_ready hr]
    split_ifs
    · exact .holds hr
    · exact .stores hr hd

theorem State.commitResult_outcome (s : State) :
    CommitOutcome s (s.commitResult (destOfRecord s.headSlot.instr)) := by
  cases hr : s.headReady
  · rw [State.commitResult_stall hr]
    exact .stays
  · rw [State.commitResult_ready hr]
    exact .retires hr

theorem dest?_of_isStore {i : Instr} (h : isStore i = true) : dest? i = none := by
  cases i <;> simp [isStore] at h <;> rfl

theorem dest?_of_isBranch {i : Instr} (h : isBranch i = true) : dest? i = none := by
  cases i <;> simp [isBranch] at h <;> rfl

theorem destOfRecord_eq {r : Record} {i : Instr} (h : r.instr? = some i) : destOfRecord r = dest? i := by
  simp [destOfRecord, h]

theorem commitPhase_outcome {s t : State} (h : commitPhase s = .next t) : ∃ τ, CommitOutcome (s.withTurn τ) t := by
  unfold commitPhase at h
  split_ifs at h
  · cases h
    exact ⟨s.turn, .stays⟩
  · refine ⟨(s.atPhase .commit).turn, ?_⟩
    obtain ⟨i, hi, h⟩ | rfl := visit_cases h
    · have hi' : (s.atPhase .commit).headSlot.instr.instr? = some i := hi
      cases (exec_at_commit rfl i).symm.trans h
      split_ifs with he hst hbr
      · exact .stays
      · exact State.commitStore_outcome ((destOfRecord_eq hi').trans (dest?_of_isStore hst))
      · exact State.commitBranch_outcome ((Record.opIsBranch_of_instr? hi').trans hbr)
          ((destOfRecord_eq hi').trans (dest?_of_isBranch hbr))
      · have h := State.commitResult_outcome (s.atPhase .commit)
        rwa [destOfRecord_eq hi'] at h
    · exact .unknown _

/-! ## I -/

/-- `s` with the instruction `i` of record `r` allocated: the ROB slot at the tail, entry `k` of its class's pool, its
destination renamed, and the fetch pointers moved (R109 to R113). -/
def State.allocated (s : State) (i : Instr) (c : UnitClass) (k : Nat) (r : Record) : State :=
  (((s.allocRob r).allocRs ⟨c.pool, k⟩ r s.rob.tail ⟨dest? i, source1? i, source2? i⟩).renameDst (dest? i)
    s.rob.tail).advance (isBranch i)

/-- What one pass of the issue loop leaves of `s` (R103 to R114). -/
inductive IssueOutcome (s : State) : State → Prop
  /-- A full ROB, a full pool or an `EOP` (R104, R107, R108). -/
  | stops : IssueOutcome s s.stopIssue
  /-- The fetch is out of bounds, or its record is rejected (R105, R106). -/
  | faults {f : FaultCode} (pc addr : Word) (hf : f ≠ .noFault) (hu : f ≠ .robUnderflow) :
      IssueOutcome s (s.raise f pc addr)
  | allocates {i : Instr} {c : UnitClass} {k : Nat} {r : Record} (hi : r.instr? = some i) (hc : classOf? i = some c)
      (hr : s.robFull = false) (hk : s.freeEntry c.pool = some k) : IssueOutcome s (s.allocated i c k r)

theorem decodeFault_ne (e : DecodeError) :
    DecodeError.faultCode e ≠ .noFault ∧ DecodeError.faultCode e ≠ .robUnderflow := by
  cases e <;> decide

theorem State.issueInto_outcome {s : State} {i : Instr} {c : UnitClass} {r : Record} (hi : r.instr? = some i)
    (hc : classOf? i = some c) :
    IssueOutcome s (s.issueInto c.pool ⟨dest? i, source1? i, source2? i⟩ (isBranch i) r) := by
  obtain ⟨h, -⟩ | ⟨k, hr, hk, h⟩ :=
    s.issueInto_cases c.pool ⟨dest? i, source1? i, source2? i⟩ (isBranch i) r <;> rw [h]
  · exact .stops
  · exact .allocates hi hc hr hk

theorem issueOne_outcome {s t : State} (h : issueOne s = .next t) : ∃ τ, IssueOutcome (s.withTurn τ) t := by
  unfold issueOne at h
  split_ifs at h
  · cases h
    exact ⟨s.turn, .stops⟩
  split at h
  · cases h
    exact ⟨s.turn, .faults _ _ (by decide) (by decide)⟩
  next w _ =>
    split at h
    next e _ =>
      cases h
      exact ⟨s.turn, .faults _ _ (decodeFault_ne e).1 (decodeFault_ne e).2⟩
    next =>
      refine ⟨(s.atPhase (.issue (unpack w))).turn, ?_⟩
      obtain ⟨i, hi, h⟩ | rfl := visit_cases h
      · rw [exec_at_issue rfl] at h
        cases hc : classOf? i <;> rw [hc] at h <;> cases h
        · exact .stops
        · exact State.issueInto_outcome hi hc
      · exact .faults (f := .unknownOpcode) _ _ (by decide) (by decide)

/-! ## The step -/

/-- What runs before the issue stage is C and a run of elementary changes (R180). -/
theorem beforeIssue_run {s t : State} (h : beforeIssue s = .next t) :
    ∃ u, commitPhase s = .next u ∧ ExecRun u t := by
  simp only [beforeIssue, andThen_assoc] at h
  obtain ⟨u, hu, ⟨-, rfl⟩ | ⟨-, h⟩⟩ := andThen_eq_next h
  · exact ⟨t, hu, .refl⟩
  · refine ⟨u, hu, andThen_execRun (fun _ => writebackPhase_run) (fun _ _ => ?_) h⟩
    refine andThen_execRun (fun _ => addressPhase_run) (fun _ _ => ?_)
    exact andThen_execRun (fun _ => dispatchPhase_run) fun _ _ => countPhase_run

/-- Every elementary change of a step keeps `P`. -/
structure StepKeeps (P : State → Prop) : Prop where
  commit : ∀ s t, P s → CommitOutcome s t → P t
  exec : ∀ s t, P s → ExecChange s t → P t
  issue : ∀ s t, P s → IssueOutcome s t → P t
  finalize : ∀ s, P s → P (s.mapEntries RsEntry.finalize)
  tick : ∀ s, P s → P { s with cycle := s.cycle + 1 }

theorem andThen_keeps {P : State → Prop} {o : Result} {f : State → Result} {t : State} (ho : ∀ u, o = .next u → P u)
    (hf : ∀ u v, P u → f u = .next v → P v) (h : andThen o f = .next t) : P t := by
  obtain ⟨u, hu, ⟨-, rfl⟩ | ⟨-, h⟩⟩ := andThen_eq_next h
  · exact ho _ hu
  · exact hf u t (ho u hu) h

theorem issueLoop_keeps {P : State → Prop} (hP : ∀ s t, P s → issueOne s = .next t → P t) (n : Nat) :
    ∀ s t, P s → issueLoop n s = .next t → P t := by
  induction n with
  | zero => intro s t hs h; cases h; exact hs
  | succ n ih =>
    intro s t hs h
    refine andThen_keeps (hP s · hs) (fun u v hu h => ?_) h
    split_ifs at h
    · cases h; exact hu
    · exact ih u v hu h

/-- The step of a state that answers a next state is that of a block that can run. -/
theorem stepBlock_of_step {s t : State} (h : step s = .next t) : stepBlock s = .next t := by
  obtain ⟨-, h'⟩ | ⟨-, h'⟩ | ⟨-, h'⟩ | ⟨hr, -⟩ := step_cases s
  · cases h'.symm.trans h
  · cases h'.symm.trans h
  · cases h'.symm.trans h
  · exact (step_of_runnable hr).symm.trans h

namespace StepKeeps

variable {P : State → Prop} (hP : StepKeeps P) {s t : State}

include hP

theorem turn (hs : P s) (τ : Turn) : P (s.withTurn τ) := hP.exec s _ hs (.turn τ)

theorem run (hs : P s) (h : ExecRun s t) : P t := h.keeps hP.exec hs

theorem commitPhase (hs : P s) (h : commitPhase s = .next t) : P t := by
  obtain ⟨τ, h⟩ := commitPhase_outcome h
  exact hP.commit _ _ (hP.turn hs τ) h

theorem issueOne (hs : P s) (h : issueOne s = .next t) : P t := by
  obtain ⟨τ, h⟩ := issueOne_outcome h
  exact hP.issue _ _ (hP.turn hs τ) h

theorem issuePhase (hs : P s) (h : issuePhase s = .next t) : P t :=
  issueLoop_keeps (fun _ _ => hP.issueOne) _ _ _ (hP.turn hs { s.turn with issued := 0 }) h

theorem finalizePhase (hs : P s) (h : finalizePhase s = .next t) : P t := by
  cases h
  exact hP.turn (hP.finalize s hs) _

theorem cycle (hs : P s) (h : cycle s = .next t) : P t := by
  refine andThen_keeps (fun u hu => ?_) (fun u v hu => ?_) h
  · obtain ⟨w, hw, hr⟩ := beforeIssue_run hu
    exact hP.run (hP.commitPhase (hP.turn hs .start) hw) hr
  · refine andThen_keeps (fun _ => andThen_keeps (fun _ => hP.issuePhase hu) fun _ _ => hP.finalizePhase) ?_
    rintro w x hw ⟨⟩
    exact hP.tick w hw

/-- What every elementary change keeps, a step keeps. -/
theorem step (hs : P s) (h : step s = .next t) : P t := by
  have h := stepBlock_of_step h
  unfold stepBlock at h
  split_ifs at h
  · exact hP.cycle hs h
  · cases h; exact hs

end StepKeeps

end Sys2Proof.Machine
end

section
/-! PROOFS. Every elementary change of a step leaves a state that can run (10:R20 to R50): no index, tag or countdown
leaves its range. -/

namespace Sys2Proof.Machine

/-! ## Memory -/

theorem Memory.mem_put {a : Nat} {b : Byte} {m : Memory} {c : Host.Cell} (h : c ∈ Memory.put a b m) :
    c ∈ m ∨ c.1 = a := by
  unfold Memory.put at h
  split_ifs at h
  · exact .inl h
  · obtain rfl | h := List.mem_cons.1 h
    · exact .inr rfl
    · exact .inl h

/-- A byte write lists no address but its own anew. -/
theorem Memory.mem_write {a : Nat} {b : Byte} {m : Memory} {c : Host.Cell} (h : c ∈ m.write a b) : c ∈ m ∨ c.1 = a := by
  induction m with
  | nil => exact Memory.mem_put h
  | cons d m ih =>
    unfold Memory.write at h
    split_ifs at h
    · exact Memory.mem_put h
    · exact (Memory.mem_put h).imp_left (List.mem_cons_of_mem d)
    · obtain rfl | h := List.mem_cons.1 h
      · exact .inl List.mem_cons_self
      · exact (ih h).imp_left (List.mem_cons_of_mem d)

theorem Memory.writeWord_inRange {m : Memory} {a n : Nat} (hm : ∀ c ∈ m, c.1 < n) (ha : a + 4 ≤ n) (v : Word) :
    ∀ c ∈ m.writeWord a v, c.1 < n := by
  intro c hc
  obtain hc | h3 := Memory.mem_write hc
  · obtain hc | h2 := Memory.mem_write hc
    · obtain hc | h1 := Memory.mem_write hc
      · obtain hc | h0 := Memory.mem_write hc
        · exact hm c hc
        · omega
      · omega
    · omega
  · omega

/-! ## The execution phases -/

theorem Operand.hear_inRange {o : Operand} {n : Nat} (h : o.inRange n = true) (t : Nat) (v : Word) :
    (o.hear t v).inRange n = true := by
  unfold Operand.hear
  split_ifs
  · simp only [Operand.inRange, decide_eq_true_eq] at h ⊢
    omega
  · exact h

theorem RsEntry.inRange_iff (e : RsEntry) (n : Nat) :
    e.inRange n = true ↔ e.op1.inRange n = true ∧ e.op2.inRange n = true ∧ e.tagD < n := by
  simp [RsEntry.inRange, and_assoc]

theorem RsEntry.hear_inRange {e : RsEntry} {n : Nat} (h : e.inRange n = true) (t : Nat) (v : Word) :
    (e.hear t v).inRange n = true := by
  unfold RsEntry.hear
  split_ifs
  · obtain ⟨h1, h2, hd⟩ := (e.inRange_iff n).1 h
    exact (RsEntry.inRange_iff _ n).2 ⟨Operand.hear_inRange h1 t v, Operand.hear_inRange h2 t v, hd⟩
  · exact h

/-! ## Squash, accessor by accessor (R170) -/

theorem State.slot_squash (s : State) (w : Word) (u : Nat) : (s.squash w).slot u = { s.slot u with live := false } := by
  simp only [State.slot, State.squash_rob]
  exact getD_map (f := fun x : RobSlot => { x with live := false }) rfl _ u

theorem State.entry_squash (s : State) (w : Word) (q : RsRef) :
    (s.squash w).entry q = { s.entry q with busy := false, remove := false } := by
  simp only [State.entry, State.squash_rs, PerPool.get_map]
  exact getD_map (f := fun e : RsEntry => { e with busy := false, remove := false }) rfl _ _

theorem State.lane_squash (s : State) (w : Word) (c : UnitClass) (j : Nat) :
    (s.squash w).lane c j = (s.lane c j).clear := by
  simp only [State.lane, State.squash_lanes, PerClass.get_map]
  exact getD_map rfl _ j

theorem State.bypSlot_squash (s : State) (w : Word) (j : Nat) : (s.squash w).bypSlot j = (s.bypSlot j).clear := by
  simp only [State.bypSlot, State.squash_byp]
  exact getD_map rfl _ j

namespace State.Fit

variable {s : State} (h : s.Fit)

include h

theorem withTurn (τ : Turn) : (s.withTurn τ).Fit := h.sameArrays ⟨rfl, rfl, rfl, rfl, rfl, rfl, rfl, rfl, rfl⟩

theorem freeSlot (l : SlotRef) : (s.freeSlot l).Fit := by
  cases l with
  | timed c j => exact h.setLane c j (h.laneRange c j).1 (Nat.zero_le _)
  | bypass j => exact h.setByp j (h.bypRange j)

theorem markExecuting (ref : RsRef) : (s.markExecuting ref).Fit := by
  rw [State.markExecuting_eq]
  refine State.Fit.setSlot (h.setEntry ref ?_) _ ?_
  · exact h.entryTags ref
  · exact h.stctr _

theorem hearAll (t : Nat) (v : Word) : (s.mapEntries fun e => e.hear t v).Fit :=
  h.mapEntries (f := fun e => e.hear t v) rfl fun _ he => RsEntry.hear_inRange he t v

theorem writeResult (l : SlotRef) (b : Bool) : (s.writeResult l b).Fit := by
  rw [State.writeResult_eq]
  refine State.Fit.freeSlot (State.Fit.setEntry (State.Fit.setSlot (h.hearAll _ _) _ ?_) _ ?_) l
  · exact h.stctr _
  · exact RsEntry.hear_inRange (h.entryTags (s.slotView l).rs) _ _

theorem generateAddress (k : Nat) (imm : Word) (st : Bool) : (s.generateAddress k imm st).Fit := by
  cases hw : (s.entry ⟨.loadB, k⟩).wantsAddress
  · rw [State.generateAddress_skip hw]
    exact h
  · have he := h.setEntry ⟨.loadB, k⟩
      (x := { s.entry ⟨.loadB, k⟩ with addr := (s.entry ⟨.loadB, k⟩).op1.value + imm, addrKnown := true })
      (h.entryTags ⟨.loadB, k⟩)
    cases st
    · rw [State.generateAddress_load hw]
      exact he
    · rw [State.generateAddress_store hw]
      exact he.setSlot _ (h.stctr _)

theorem setOwnLane (c : UnitClass) (j : Nat) {l : Lane} (hr : l.rs = (s.lane c j).rs) (ht : l.ttl ≤ (s.lane c j).ttl) :
    (s.setLane c j l).Fit :=
  h.setLane c j (hr ▸ (h.laneRange c j).1) (ht.trans (h.laneRange c j).2)

theorem execChange {t : State} (hc : ExecChange s t) : t.Fit := by
  cases hc with
  | turn τ => exact h.withTurn τ
  | raise pc addr hf hu => exact h.raise _ pc addr
  | broadcast hd => exact h.writeResult _ _
  | address k imm st => exact h.generateAddress k imm st
  | startLane ho hi hj => exact (h.setLane _ _ hi le_rfl).markExecuting _
  | startBypass v ho hi hj => exact (h.setByp _ hi).markExecuting _
  | count hb hd ht => exact h.setOwnLane _ _ rfl (Nat.sub_le _ 1)
  | finish v m hb hd ht =>
    refine h.setOwnLane _ _ ?_ ?_
    · rfl
    · exact Nat.zero_le _
  | laneFault pc addr hb hf hu =>
    refine (State.Fit.raise (h.setOwnLane _ _ ?_ ?_) _ pc addr)
    · rfl
    · exact Nat.zero_le _
  | bypassDone =>
    exact { h with
      bypCount := (List.length_map ..).trans h.bypCount
      bypRange := fun j => by
        have hj : ({ s with byp := s.byp.map BypSlot.finish } : State).bypSlot j = (s.bypSlot j).finish :=
          getD_map rfl s.byp j
        rw [hj, BypSlot.finish]
        split_ifs <;> exact h.bypRange j }

/-! ## Commit -/

theorem slots_stctr : ∀ x ∈ s.rob.slots, x.stctr.getD 0 ≤ s.cfg.lat.memory :=
  (forall_getD_iff (P := fun x : RobSlot => x.stctr.getD 0 ≤ s.cfg.lat.memory) (d := RobSlot.empty) (Nat.zero_le _)).1
    h.stctr

theorem stampCommit : s.stampCommit.Fit := by
  obtain e | e := s.stampCommit_cases <;> rw [e]
  · exact h
  · exact h.setSlot _ (h.stctr s.rob.head)

theorem commitReg (dst : Option RegName) : (s.commitReg dst).Fit := by
  cases dst with
  | none => exact h
  | some r => exact h.setReg r (h.regTag r)

theorem popAndCount : s.popAndCount.Fit := by
  by_cases hc : s.rob.count = 0
  · simp only [State.popAndCount, hc, if_true]
    exact h.raise _ 0 0
  · rw [State.popAndCount_of_ne hc]
    have hr := h.rob (r := ⟨s.rob.slots.set s.rob.head { s.headSlot with live := false },
      (s.rob.head + 1) % s.cfg.robSize, s.rob.tail, s.rob.count - 1⟩) (List.length_set ..)
      (Nat.mod_lt _ (Config.robSize_pos h.wf)) h.tail ((Nat.sub_le _ 1).trans h.count) fun x hx => by
        obtain hx | rfl := List.mem_or_eq_of_mem_set hx
        · exact h.slots_stctr x hx
        · exact h.stctr s.rob.head
    exact hr.sameArrays ⟨rfl, rfl, rfl, rfl, rfl, rfl, rfl, rfl, rfl⟩

theorem storeCountdown : s.storeCountdown.Fit := by
  refine (h.setSlot s.rob.head (x := { s.headSlot with stctr := some (s.headSlot.stctr.getD s.cfg.lat.memory - 1) })
    ?_).sameArrays ⟨rfl, rfl, rfl, rfl, rfl, rfl, rfl, rfl, rfl⟩
  have hh := h.stctr s.rob.head
  simp only [State.headSlot, Option.getD_some]
  cases hx : (s.slot s.rob.head).stctr with
  | none => exact Nat.sub_le _ 1
  | some n => exact (Nat.sub_le _ 1).trans (by simpa [hx] using hh)

/-- The write of a store whose access is good (R164). -/
theorem storeWritten {a : Word} (ha : accessFault s.cfg a = none) (v : Word) :
    State.Fit { s with mem := s.mem.writeWord a.toNat v, memBlock := false } := by
  refine (h.memory (m := s.mem.writeWord a.toNat v) (Memory.wf_writeWord h.memWf _ _) ?_).sameArrays
    ⟨rfl, rfl, rfl, rfl, rfl, rfl, rfl, rfl, rfl⟩
  exact Memory.writeWord_inRange h.memRange (accessFault_eq_none.1 ha).2 v

theorem storeWrite : s.storeWrite.Fit := by
  obtain ⟨f, -, e⟩ | ⟨ha, e⟩ := s.storeWrite_cases <;> rw [e]
  · exact h.raise f _ _
  · exact State.Fit.popAndCount (h.storeWritten ha _)

theorem squash (w : Word) : (s.squash w).Fit where
  wf := by rw [State.squash_cfg]; exact h.wf
  loaded := by rw [State.squash_prog]; exact h.loaded
  regTag r := by rw [State.squash_cfg, State.reg_squash]; exact h.regTag r
  slotCount := by rw [State.squash_cfg, State.squash_rob, List.length_map]; exact h.slotCount
  head := by rw [State.squash_cfg, State.squash_rob]; exact h.tail
  tail := by rw [State.squash_cfg, State.squash_rob]; exact h.tail
  count := by rw [State.squash_rob]; exact Nat.zero_le _
  stctr u := by rw [State.squash_cfg, State.slot_squash]; exact h.stctr u
  poolSize p := by rw [State.squash_cfg, State.squash_rs, PerPool.get_map, List.length_map]; exact h.poolSize p
  entryTags q := by rw [State.squash_cfg, State.entry_squash]; exact h.entryTags q
  laneCount c := by rw [State.squash_cfg, State.squash_lanes, PerClass.get_map, List.length_map]; exact h.laneCount c
  laneRange c j := by
    rw [State.squash_cfg, State.lane_squash]
    exact ⟨(h.laneRange c j).1, Nat.zero_le _⟩
  bypCount := by rw [State.squash_cfg, State.squash_byp, List.length_map]; exact h.bypCount
  bypRange j := by rw [State.squash_cfg, State.bypSlot_squash]; exact h.bypRange j
  memWf := by rw [State.squash_mem]; exact h.memWf
  memRange := by rw [State.squash_cfg, State.squash_mem]; exact h.memRange

theorem commitOutcome {t : State} (hc : CommitOutcome s t) : t.Fit := by
  cases hc with
  | stays => exact h
  | unknown pc => exact h.raise _ pc 0
  | retires hr => exact (h.stampCommit.commitReg _).popAndCount
  | squashes hr hb hm =>
    refine State.Fit.squash (h.stampCommit.sameArrays ?_) _
    exact ⟨rfl, rfl, rfl, rfl, rfl, rfl, rfl, rfl, rfl⟩
  | holds hr => exact h.stampCommit.storeCountdown
  | stores hr hd => exact h.stampCommit.storeCountdown.storeWrite

/-! ## Issue and F -/

theorem rename_tag (r : RegName) : (s.rename r).tag < s.cfg.robSize := by
  have h0 := Config.robSize_pos h.wf
  unfold State.rename
  dsimp only
  split_ifs
  · exact h0
  · exact h0
  · exact h.regTag r

theorem source_inRange (x : Option RegName) : (s.source x).inRange s.cfg.robSize = true := by
  refine decide_eq_true ?_
  cases x with
  | none => exact Config.robSize_pos h.wf
  | some r => exact h.rename_tag r

theorem allocRob (hr : s.robFull = false) (r : Record) : (s.allocRob r).Fit := by
  have hne : s.rob.count ≠ s.cfg.robSize := by simpa [State.robFull] using hr
  refine h.rob (List.length_set ..) h.head (Nat.mod_lt _ (Config.robSize_pos h.wf)) ?_ fun x hx => ?_
  · exact Nat.lt_of_le_of_ne h.count hne
  · obtain hx | rfl := List.mem_or_eq_of_mem_set hx
    · exact h.slots_stctr x hx
    · exact Nat.zero_le _

theorem allocRs (q : RsRef) (r : Record) {u : Nat} (hu : u < s.cfg.robSize) (ops : Operands) :
    (s.allocRs q r u ops).Fit := by
  refine (h.setEntry q ?_).sameArrays ⟨rfl, rfl, rfl, rfl, rfl, rfl, rfl, rfl, rfl⟩
  exact (RsEntry.inRange_iff _ _).2 ⟨h.source_inRange _, h.source_inRange _, hu⟩

theorem renameDst (dst : Option RegName) {u : Nat} (hu : u < s.cfg.robSize) : (s.renameDst dst u).Fit := by
  cases dst with
  | none => exact h
  | some r => exact h.setReg r hu

theorem allocated {i : Instr} {c : UnitClass} {k : Nat} {r : Record} (hr : s.robFull = false) :
    (s.allocated i c k r).Fit := by
  have ha := (h.allocRob hr r).allocRs ⟨c.pool, k⟩ r h.tail ⟨dest? i, source1? i, source2? i⟩
  refine (State.Fit.renameDst ha (dest? i) h.tail).sameArrays ?_
  exact ⟨rfl, rfl, rfl, rfl, rfl, rfl, rfl, rfl, rfl⟩

theorem issueOutcome {t : State} (hc : IssueOutcome s t) : t.Fit := by
  cases hc with
  | stops => exact h.withTurn _
  | faults pc addr hf hu => exact h.raise _ pc addr
  | allocates hi hc hr hk => exact h.allocated hr

theorem finalize : (s.mapEntries RsEntry.finalize).Fit :=
  h.mapEntries rfl fun e he => by
    unfold RsEntry.finalize
    split_ifs <;> exact he

end State.Fit

theorem State.stepKeeps_fit : StepKeeps State.Fit where
  commit _ _ h hc := h.commitOutcome hc
  exec _ _ h hc := h.execChange hc
  issue _ _ h hc := h.issueOutcome hc
  finalize _ h := h.finalize
  tick _ h := h.sameArrays ⟨rfl, rfl, rfl, rfl, rfl, rfl, rfl, rfl, rfl⟩

/-- Settles O47: a block that can run answers a next state, and every elementary change of the step keeps the ranges. -/
theorem runnableBlockNeverStops : Obligations.RunnableBlockNeverStops := by
  unfold Obligations.RunnableBlockNeverStops
  intro s h
  obtain ⟨t, ht, -⟩ := step_nextKeepsSetup h
  exact ⟨t, ht, State.runnable_iff_fit.2 (State.stepKeeps_fit.step (State.runnable_iff_fit.1 h) ht)⟩

end Sys2Proof.Machine
end

section
/-! PROOFS. What moves the fetch pointers, and when the ROB is popped (10:R26, R33, 40:R112, R114, 43:R160 to R172). -/

namespace Sys2Proof.Machine

/-! ## The parts of C -/

/-- `t` has the fetch pointers, the count and the fault of `s`. -/
structure State.SameFetch (s t : State) : Prop where
  pc : t.pc = s.pc
  nextId : t.nextId = s.nextId
  count : t.rob.count = s.rob.count
  tail : t.rob.tail = s.rob.tail
  fault : t.fault = s.fault

theorem State.SameFetch.trans {s t u : State} (h : s.SameFetch t) (h' : t.SameFetch u) : s.SameFetch u :=
  ⟨h'.pc.trans h.pc, h'.nextId.trans h.nextId, h'.count.trans h.count, h'.tail.trans h.tail, h'.fault.trans h.fault⟩

theorem State.stampCommit_sameFetch (s : State) : s.SameFetch s.stampCommit := by
  obtain h | h := s.stampCommit_cases <;> rw [h] <;> exact ⟨rfl, rfl, rfl, rfl, rfl⟩

theorem State.commitReg_sameFetch (s : State) (dst : Option RegName) : s.SameFetch (s.commitReg dst) := by
  cases dst with
  | none => exact ⟨rfl, rfl, rfl, rfl, rfl⟩
  | some r => cases r <;> exact ⟨rfl, rfl, rfl, rfl, rfl⟩

theorem State.storeCountdown_sameFetch (s : State) : s.SameFetch s.storeCountdown := ⟨rfl, rfl, rfl, rfl, rfl⟩

theorem State.count_ne_zero_of_headReady {s : State} (h : s.headReady = true) : s.rob.count ≠ 0 := by
  simp only [State.headReady, Bool.and_eq_true, bne_iff_ne] at h
  exact h.1

/-- A pop of a ROB that is not empty keeps `pc` and raises nothing. -/
theorem State.popAndCount_pc_fault {s : State} (h : s.rob.count ≠ 0) :
    s.popAndCount.pc = s.pc ∧ s.popAndCount.fault = s.fault := by
  rw [State.popAndCount_of_ne h]
  exact ⟨rfl, rfl⟩

theorem State.storeWrite_pc_fault {s : State} (h : s.rob.count ≠ 0) :
    s.storeWrite.pc = s.pc ∧ (s.storeWrite.fault = s.fault ∨ s.storeWrite.fault ≠ .robUnderflow) := by
  obtain ⟨f, hf, e⟩ | ⟨-, e⟩ := s.storeWrite_cases <;> rw [e]
  · exact ⟨rfl, .inr (accessFault_ne hf).2⟩
  · obtain ⟨hp, hf⟩ := State.popAndCount_pc_fault
      (s := { s with mem := s.mem.writeWord s.headSlot.addr.toNat s.headSlot.value, memBlock := false }) h
    exact ⟨hp, .inl hf⟩

/-- C pops only a live head, so it never underflows (R33, R160). -/
theorem CommitOutcome.fault_ne {s t : State} (h : CommitOutcome s t) (hs : s.fault ≠ .robUnderflow) :
    t.fault ≠ .robUnderflow := by
  cases h with
  | stays => exact hs
  | unknown pc => exact (by decide : FaultCode.unknownOpcode ≠ .robUnderflow)
  | retires hr =>
    have hf := s.stampCommit_sameFetch.trans (s.stampCommit.commitReg_sameFetch (destOfRecord s.headSlot.instr))
    rw [(State.popAndCount_pc_fault (hf.count ▸ State.count_ne_zero_of_headReady hr)).2, hf.fault]
    exact hs
  | squashes hr hb hm =>
    rw [State.squash_fault]
    exact s.stampCommit_sameFetch.fault ▸ hs
  | holds hr =>
    exact (s.stampCommit_sameFetch.trans s.stampCommit.storeCountdown_sameFetch).fault ▸ hs
  | stores hr hd =>
    have hf := s.stampCommit_sameFetch.trans s.stampCommit.storeCountdown_sameFetch
    obtain ⟨-, h | h⟩ := State.storeWrite_pc_fault (hf.count ▸ State.count_ne_zero_of_headReady hr)
    · rw [h, hf.fault]
      exact hs
    · exact h

/-- C redirects `pc` only by the squash of a ready branch with `misPred` (R163, R170). -/
theorem CommitOutcome.pc_cases {s t : State} (h : CommitOutcome s t) :
    t.pc = s.pc ∨ (s.headReady = true ∧ s.headSlot.instr.opIsBranch = true ∧ s.headSlot.misPred = true ∧
      t.pc = s.headSlot.value ∧ t.rob.count = 0) := by
  cases h with
  | stays => exact .inl rfl
  | unknown pc => exact .inl rfl
  | retires hr =>
    have hf := s.stampCommit_sameFetch.trans (s.stampCommit.commitReg_sameFetch (destOfRecord s.headSlot.instr))
    exact .inl <|
      (State.popAndCount_pc_fault (hf.count ▸ State.count_ne_zero_of_headReady hr)).1.trans hf.pc
  | squashes hr hb hm => exact .inr ⟨hr, hb, hm, State.squash_pc .., by rw [State.squash_rob]⟩
  | holds hr => exact .inl (s.stampCommit_sameFetch.trans s.stampCommit.storeCountdown_sameFetch).pc
  | stores hr hd =>
    have hf := s.stampCommit_sameFetch.trans s.stampCommit.storeCountdown_sameFetch
    exact .inl ((State.storeWrite_pc_fault (hf.count ▸ State.count_ne_zero_of_headReady hr)).1.trans hf.pc)

/-! ## Issue -/

theorem State.allocated_fault (s : State) (i : Instr) (c : UnitClass) (k : Nat) (r : Record) :
    (s.allocated i c k r).fault = s.fault := by
  unfold State.allocated State.renameDst
  cases dest? i <;> simp

/-- `k` instructions lie between the fetch pointers of `s` and `t` (R109, R110, R112). -/
structure State.Advanced (s t : State) (k : Nat) : Prop where
  cfg : t.cfg = s.cfg
  pc : t.pc = s.pc + 4 * BitVec.ofNat 32 k
  nextId : t.nextId = s.nextId + k
  count : t.rob.count = s.rob.count + k
  tail : t.rob.tail = (s.rob.tail + k) % s.cfg.robSize

theorem State.Advanced.zero {s t : State} (h : s.Fit) (hc : t.cfg = s.cfg) (hp : t.pc = s.pc)
    (hn : t.nextId = s.nextId) (hr : t.rob = s.rob) : s.Advanced t 0 :=
  ⟨hc, by simp [hp], hn, by rw [hr]; rfl, by rw [hr, Nat.add_zero, Nat.mod_eq_of_lt h.tail]⟩

theorem State.Advanced.add {s t u : State} {k m : Nat} (h : s.Advanced t k) (h' : t.Advanced u m) :
    s.Advanced u (k + m) where
  cfg := h'.cfg.trans h.cfg
  pc := by rw [h'.pc, h.pc, BitVec.ofNat_add, BitVec.mul_add, BitVec.add_assoc]
  nextId := by rw [h'.nextId, h.nextId, Nat.add_assoc]
  count := by rw [h'.count, h.count, Nat.add_assoc]
  tail := by rw [h'.tail, h.tail, h.cfg, Nat.mod_add_mod, Nat.add_assoc]

theorem State.allocated_advanced (s : State) (i : Instr) (c : UnitClass) (k : Nat) (r : Record) :
    s.Advanced (s.allocated i c k r) 1 := by
  unfold State.allocated State.renameDst
  cases dest? i <;> constructor <;> simp

theorem issueOne_advanced {s t : State} (hs : s.Fit) (h : issueOne s = .next t) : ∃ k ≤ 1, s.Advanced t k := by
  obtain ⟨τ, h⟩ := issueOne_outcome h
  cases h with
  | stops => exact ⟨0, by omega, .zero hs rfl rfl rfl rfl⟩
  | faults pc addr hf hu => exact ⟨0, by omega, .zero hs rfl rfl rfl rfl⟩
  | @allocates i c k r hi hc hr hk =>
    have h0 : s.Advanced (s.withTurn τ) 0 := .zero hs rfl rfl rfl rfl
    exact ⟨0 + 1, le_rfl, h0.add (State.allocated_advanced _ i c k r)⟩

theorem issueLoop_advanced (n : Nat) : ∀ s t : State, s.Fit → issueLoop n s = .next t → ∃ k ≤ n, s.Advanced t k := by
  induction n with
  | zero => intro s t hs h; cases h; exact ⟨0, le_rfl, .zero hs rfl rfl rfl rfl⟩
  | succ n ih =>
    intro s t hs h
    obtain ⟨u, hu, h⟩ := andThen_eq_next h
    obtain ⟨k, hk, hsu⟩ := issueOne_advanced hs hu
    obtain ⟨-, rfl⟩ | ⟨-, h⟩ := h
    · exact ⟨k, by omega, hsu⟩
    · split_ifs at h
      · cases h
        exact ⟨k, by omega, hsu⟩
      · obtain ⟨m, hm, hut⟩ := ih u t (State.stepKeeps_fit.issueOne hs hu) h
        exact ⟨k + m, by omega, hsu.add hut⟩

theorem issuePhase_advanced {s t : State} (hs : s.Fit) (h : issuePhase s = .next t) :
    ∃ k ≤ s.cfg.issueWidth, s.Advanced t k := by
  obtain ⟨k, hk, h⟩ := issueLoop_advanced _ _ t (hs.withTurn _) h
  exact ⟨k, hk, ⟨h.cfg, h.pc, h.nextId, h.count, h.tail⟩⟩

/-! ## The step, phase by phase -/

/-- What F and the cycle count leave of a state that has not faulted (R180, R181). -/
def State.ended (s : State) : State :=
  { s.mapEntries RsEntry.finalize with turn := Turn.start, cycle := s.cycle + 1 }

theorem fromIssue_cases {s t : State} (h : fromIssue s = .next t) :
    ∃ u, issuePhase s = .next u ∧ ((u.fault ≠ .noFault ∧ t = u) ∨ (u.fault = .noFault ∧ t = u.ended)) := by
  rw [fromIssue, andThen_assoc] at h
  obtain ⟨u, hu, h | ⟨hf, h⟩⟩ := andThen_eq_next h
  · exact ⟨u, hu, .inl h⟩
  · refine ⟨u, hu, .inr ⟨hf, ?_⟩⟩
    rw [finalizePhase, andThen_next] at h
    split_ifs at h with hn
    · cases h; rfl
    · exact absurd hf hn

/-- The step of an unfaulted block ends with the first fault before the issue stage, or runs on from there. -/
theorem step_phases {s t : State} (hs : s.fault = .noFault) (h : step s = .next t) :
    ∃ v, beforeIssue { s with turn := Turn.start } = .next v ∧
      ((v.fault ≠ .noFault ∧ t = v) ∨ (v.fault = .noFault ∧ fromIssue v = .next t)) := by
  have h := stepBlock_of_step h
  rw [stepBlock, if_pos hs] at h
  exact andThen_eq_next h

/-- Settles O53: every pop of a step is of a live head, and no other action raises this fault. -/
theorem robNeverUnderflows : Obligations.RobNeverUnderflows := by
  unfold Obligations.RobNeverUnderflows
  have hkeeps : StepKeeps fun s => s.fault ≠ .robUnderflow :=
    { commit := fun s t hs h => h.fault_ne hs
      exec := fun s t hs h => h.frame.fault.elim (fun e => e ▸ hs) And.right
      issue := fun s t hs h => by
        cases h with
        | stops => exact hs
        | faults pc addr hf hu => exact hu
        | allocates hi hc hr hk => rwa [State.allocated_fault]
      finalize := fun s hs => hs
      tick := fun s hs => hs }
  refine ⟨fun s h => ?_, fun s t hs h => hkeeps.step (hs ▸ by decide) h⟩
  rw [State.popAndCount, if_pos h]
  rfl

/-- Settles O55: W and X leave the fetch pointers alone, each pass of the issue loop moves them by one instruction or
not at all, and of the outcomes of C only a squash writes `pc`. -/
theorem issueMovesTogether : Obligations.IssueMovesTogether := by
  unfold Obligations.IssueMovesTogether
  intro s u t hs hf hu h
  have hfu : u.Fit := State.stepKeeps_fit.commitPhase ((State.runnable_iff_fit.1 hs).withTurn .start) hu
  have hcu : u.cfg = s.cfg := by
    obtain ⟨_, hu', hcfg, -⟩ := commitPhase_nextKeepsSetup (s.withTurn .start)
    cases hu'.symm.trans hu
    exact hcfg
  have hpc : u.pc ≠ s.pc → s.headReady = true ∧ s.headSlot.instr.opIsBranch = true ∧ s.headSlot.misPred = true ∧
      u.pc = s.headSlot.value ∧ u.rob.count = 0 := by
    obtain ⟨τ, ho⟩ := commitPhase_outcome hu
    exact ho.pc_cases.resolve_left
  obtain ⟨v, hbefore, h⟩ := step_phases hf h
  obtain ⟨u', hu', hrun⟩ := beforeIssue_run hbefore
  cases hu.symm.trans hu'
  have hv := hrun.frame
  have huv : u.Advanced v 0 :=
    ⟨hv.cfg, by simp [hv.pc], hv.nextId, hv.count, by rw [hv.tail, Nat.add_zero, Nat.mod_eq_of_lt hfu.tail]⟩
  suffices ∃ k ≤ s.cfg.issueWidth, u.Advanced t k by
    obtain ⟨k, hk, ha⟩ := this
    exact ⟨k, hk, ha.pc, ha.nextId, ha.count, hcu ▸ ha.tail, hpc⟩
  obtain ⟨-, rfl⟩ | ⟨-, h⟩ := h
  · exact ⟨0, Nat.zero_le _, huv⟩
  · obtain ⟨w, hw, h⟩ := fromIssue_cases h
    obtain ⟨k, hk, ha⟩ := issuePhase_advanced (State.stepKeeps_fit.run hfu hrun) hw
    have hk : 0 + k ≤ s.cfg.issueWidth := by rw [Nat.zero_add, ← hcu, ← hv.cfg]; exact hk
    obtain ⟨-, rfl⟩ | ⟨-, rfl⟩ := h
    · exact ⟨_, hk, huv.add ha⟩
    · exact ⟨_, hk, huv.add ⟨ha.cfg, ha.pc, ha.nextId, ha.count, ha.tail⟩⟩

end Sys2Proof.Machine
end

section
/-! PROOFS. The ring of the ROB and the register tags (10:R14, R25, R30): allocation adds the youngest live tag, a pop
takes the oldest, and every other change of a step leaves the ring alone. -/

namespace Sys2Proof.Machine

/-! ## Ages -/

theorem mod_of_lt_two_mul {x n : Nat} (h : x < 2 * n) : x % n = if x < n then x else x - n := by
  split_ifs with hx
  · exact Nat.mod_eq_of_lt hx
  · rw [Nat.mod_eq_sub_mod (by omega), Nat.mod_eq_of_lt (by omega)]

/-- The tag of age `j` (R14). -/
theorem State.age_tag {s : State} (h : s.Fit) {j : Nat} (hj : j < s.cfg.robSize) :
    s.age ((s.rob.head + j) % s.cfg.robSize) = j := by
  have hh := h.head
  unfold State.age
  rw [mod_of_lt_two_mul (x := s.rob.head + j) (by omega)]
  split_ifs <;> rw [mod_of_lt_two_mul (by omega)] <;> split_ifs <;> omega

theorem State.tag_age {s : State} (h : s.Fit) {u : Nat} (hu : u < s.cfg.robSize) :
    (s.rob.head + s.age u) % s.cfg.robSize = u := by
  have hh := h.head
  unfold State.age
  rw [mod_of_lt_two_mul (x := u + s.cfg.robSize - s.rob.head) (by omega)]
  split_ifs <;> rw [mod_of_lt_two_mul (by omega)] <;> split_ifs <;> omega

/-- A tag is live when its age is below the count (R14, R30). -/
theorem State.mem_liveTags_iff {s : State} (h : s.Fit) {u : Nat} :
    u ∈ s.liveTags ↔ u < s.cfg.robSize ∧ s.age u < s.rob.count := by
  simp only [State.liveTags, State.tagsFrom, List.mem_map, List.mem_range]
  constructor
  · rintro ⟨j, hj, rfl⟩
    have hjn := Nat.lt_of_lt_of_le hj h.count
    exact ⟨Nat.mod_lt _ (by omega), (State.age_tag h hjn).symm ▸ hj⟩
  · rintro ⟨hu, ha⟩
    exact ⟨s.age u, ha, State.tag_age h hu⟩

theorem State.age_inj {s : State} (h : s.Fit) {u v : Nat} (hu : u < s.cfg.robSize) (hv : v < s.cfg.robSize)
    (ha : s.age u = s.age v) : u = v := by
  rw [← State.tag_age h hu, ← State.tag_age h hv, ha]

/-! ## The two invariants at every index -/

theorem State.slot_of_le {s : State} {u : Nat} (h : s.rob.slots.length ≤ u) : s.slot u = RobSlot.empty := by
  simp [State.slot, h]

theorem State.ringOk_iff {s : State} (h : s.Fit) :
    s.RingOk ↔ s.rob.tail = (s.rob.head + s.rob.count) % s.cfg.robSize ∧
      ∀ u, (s.slot u).live = true ↔ u ∈ s.liveTags := by
  refine and_congr_right fun _ => ⟨fun hl u => ?_, fun hl u _ => hl u⟩
  by_cases hu : u < s.cfg.robSize
  · exact hl u (List.mem_range.2 hu)
  · rw [State.slot_of_le (h.slotCount ▸ Nat.le_of_not_lt hu), State.mem_liveTags_iff h]
    simp [RobSlot.empty, hu]

theorem RegName.mem_all (r : RegName) : r ∈ RegName.all := by
  cases r <;> simp [RegName.all]

theorem State.regTagsOk_iff (s : State) :
    s.RegTagsOk ↔ ∀ r, (s.reg r).busy = true →
      (s.reg r).tag ∈ s.liveTags ∧ destOfRecord (s.slot (s.reg r).tag).instr = some r ∧
      ∀ u ∈ s.liveTags, destOfRecord (s.slot u).instr = some r → s.age u ≤ s.age (s.reg r).tag :=
  ⟨fun h r => h r (RegName.mem_all r), fun h r _ => h r⟩

/-! ## Changes that leave the ring alone -/

namespace State.SameRing

variable {s t : State} (h : s.SameRing t)

include h

theorem liveTags : t.liveTags = s.liveTags := by
  simp only [State.liveTags, State.tagsFrom, h.head, h.count, h.cfg]

theorem age (u : Nat) : t.age u = s.age u := by
  simp only [State.age, h.head, h.cfg]

theorem headInstr : t.headSlot.instr = s.headSlot.instr := by
  rw [State.headSlot, State.headSlot, h.head, h.instr]

theorem ringOk (hs : s.RingOk) : t.RingOk := by
  obtain ⟨ht, hl⟩ := hs
  refine ⟨by rw [h.tail, h.head, h.count, h.cfg, ht], fun u hu => ?_⟩
  rw [h.live, h.liveTags]
  exact hl u (h.cfg ▸ hu)

/-- Registers may lose their busy bit and change their value. -/
theorem regTagsOk (hr : ∀ r, (t.reg r).busy = true → (s.reg r).busy = true ∧ (t.reg r).tag = (s.reg r).tag)
    (hs : s.RegTagsOk) : t.RegTagsOk := by
  intro r hall hb
  obtain ⟨hb, htag⟩ := hr r hb
  simp only [h.liveTags, h.age, h.instr, htag]
  exact hs r hall hb

end State.SameRing

theorem State.ExecFrame.regsOk {s t : State} (h : s.ExecFrame t) (hs : s.RegsOk) : t.RegsOk := by
  have hreg : t.reg = s.reg := by
    funext r
    cases r <;> simp only [State.reg, h.gpr, h.fpr]
  exact ⟨h.ringOk hs.1, h.regTagsOk (fun r hb => ⟨hreg ▸ hb, by rw [hreg]⟩) hs.2⟩

theorem State.stampCommit_sameRing (s : State) : s.SameRing s.stampCommit := by
  obtain h | h := s.stampCommit_cases <;> rw [h]
  · exact .refl s
  · refine .setSlot s _ ?_
    exact ⟨rfl, rfl⟩

theorem State.storeCountdown_sameRing (s : State) : s.SameRing s.storeCountdown := by
  refine .trans (.setSlot s s.rob.head (x := { s.headSlot with
    stctr := some (s.headSlot.stctr.getD s.cfg.lat.memory - 1) }) ?_) (.ofRob rfl rfl)
  exact ⟨rfl, rfl⟩

theorem State.commitReg_sameRing (s : State) (dst : Option RegName) : s.SameRing (s.commitReg dst) := by
  cases dst with
  | none => exact .refl s
  | some r => exact .ofRob (State.setReg_cfg ..) (State.setReg_rob ..)

/-! ## Pop (R33) -/

section pop

variable {s : State} (h : s.Fit) (hc : s.rob.count ≠ 0)

include hc

theorem State.popAndCount_reg (r : RegName) : s.popAndCount.reg r = s.reg r := by
  rw [State.popAndCount_of_ne hc]
  cases r <;> rfl

include h

theorem State.popAndCount_slot (u : Nat) :
    s.popAndCount.slot u = if u = s.rob.head then { s.slot u with live := false } else s.slot u := by
  rw [State.popAndCount_of_ne hc]
  have hu := getD_set s.rob.slots s.rob.head u { s.headSlot with live := false } RobSlot.empty
  simp only [h.slotCount, h.head, and_true] at hu
  refine hu.trans ?_
  split_ifs with he
  · rw [he]; rfl
  · rfl

theorem State.popAndCount_age {u : Nat} (hu : u < s.cfg.robSize) (hn : u ≠ s.rob.head) :
    s.popAndCount.age u + 1 = s.age u := by
  have hh := h.head
  rw [State.popAndCount_of_ne hc]
  simp only [State.age]
  rw [mod_of_lt_two_mul (x := s.rob.head + 1) (by omega),
    mod_of_lt_two_mul (x := u + s.cfg.robSize - s.rob.head) (by omega)]
  split_ifs <;> rw [mod_of_lt_two_mul (by omega)] <;> split_ifs <;> omega

theorem State.popAndCount_age_head : s.popAndCount.age s.rob.head + 1 = s.cfg.robSize := by
  have hh := h.head
  rw [State.popAndCount_of_ne hc]
  simp only [State.age]
  rw [mod_of_lt_two_mul (x := s.rob.head + 1) (by omega)]
  split_ifs <;> rw [mod_of_lt_two_mul (by omega)] <;> split_ifs <;> omega

theorem State.popAndCount_mem_liveTags {u : Nat} :
    u ∈ s.popAndCount.liveTags ↔ u ∈ s.liveTags ∧ u ≠ s.rob.head := by
  have hcfg : s.popAndCount.cfg = s.cfg := s.popAndCount_sameSetup.1
  have hcount : s.popAndCount.rob.count = s.rob.count - 1 := by rw [State.popAndCount_of_ne hc]
  have hle := h.count
  rw [State.mem_liveTags_iff h.popAndCount, State.mem_liveTags_iff h, hcfg, hcount]
  by_cases hu : u < s.cfg.robSize
  · by_cases hn : u = s.rob.head
    · have ha := State.popAndCount_age_head h hc
      subst hn
      simp only [ne_eq, not_true_eq_false, and_false, iff_false]
      omega
    · have ha := State.popAndCount_age h hc hu hn
      simp only [hu, hn, ne_eq, not_false_eq_true, and_true, true_and]
      omega
  · simp [hu]

theorem State.popAndCount_ringOk (hs : s.RingOk) : s.popAndCount.RingOk := by
  obtain ⟨ht, hl⟩ := (State.ringOk_iff h).1 hs
  refine (State.ringOk_iff h.popAndCount).2 ⟨?_, fun u => ?_⟩
  · rw [State.popAndCount_of_ne hc]
    dsimp only
    rw [ht, Nat.mod_add_mod]
    congr 1
    omega
  · rw [State.popAndCount_mem_liveTags h hc, State.popAndCount_slot h hc]
    split_ifs with hu
    · simp [hu]
    · simp [hu, hl u]

/-- A pop keeps the register tags where no busy register waits for the head any more. -/
theorem State.popAndCount_regsOk (hs : s.RegsOk)
    (hd : ∀ r, destOfRecord s.headSlot.instr = some r → (s.reg r).busy = true → (s.reg r).tag ≠ s.rob.head) :
    s.popAndCount.RegsOk := by
  refine ⟨State.popAndCount_ringOk h hc hs.1, (State.regTagsOk_iff _).2 fun r hb => ?_⟩
  rw [State.popAndCount_reg hc] at hb ⊢
  obtain ⟨hlive, hdst, hyoung⟩ := (State.regTagsOk_iff s).1 hs.2 r hb
  have hne : (s.reg r).tag ≠ s.rob.head := fun he => hd r (by rw [← hdst, he]; rfl) hb he
  refine ⟨(State.popAndCount_mem_liveTags h hc).2 ⟨hlive, hne⟩, ?_, fun u hu hud => ?_⟩
  · rwa [State.popAndCount_slot h hc, if_neg hne]
  · obtain ⟨hu, hun⟩ := (State.popAndCount_mem_liveTags h hc).1 hu
    rw [State.popAndCount_slot h hc, if_neg hun] at hud
    have hle := hyoung u hu hud
    have h1 := State.popAndCount_age h hc ((State.mem_liveTags_iff h).1 hu).1 hun
    have h2 := State.popAndCount_age h hc ((State.mem_liveTags_iff h).1 hlive).1 hne
    omega

end pop

/-! ## C -/

theorem State.reg_commitReg (s : State) (dst : Option RegName) (q : RegName) :
    (s.commitReg dst).reg q =
      if dst = some q then
        { s.reg q with
          value := s.headSlot.value
          busy := if (s.reg q).busy = true ∧ (s.reg q).tag = s.rob.head then false else (s.reg q).busy }
      else s.reg q := by
  cases dst with
  | none => rfl
  | some r =>
    by_cases h : q = r
    · subst h
      simp [State.commitReg]
    · simp [State.commitReg, State.reg_setReg, h, Ne.symm h]

theorem State.reg_stampCommit (s : State) (r : RegName) : s.stampCommit.reg r = s.reg r := by
  obtain h | h := s.stampCommit_cases <;> rw [h]
  exact State.reg_setSlot ..

theorem State.commitReg_regsOk {s : State} (dst : Option RegName) (hs : s.RegsOk) : (s.commitReg dst).RegsOk := by
  have hring := s.commitReg_sameRing dst
  refine ⟨hring.ringOk hs.1, hring.regTagsOk (fun r hb => ?_) hs.2⟩
  rw [State.reg_commitReg] at hb ⊢
  split_ifs at hb ⊢
  · exact ⟨hb, rfl⟩
  · exact ⟨hb, rfl⟩

theorem State.squash_regsOk {s : State} (h : s.Fit) (w : Word) : (s.squash w).RegsOk := by
  have hlive : (s.squash w).liveTags = [] := by simp [State.liveTags, State.tagsFrom]
  refine ⟨(State.ringOk_iff (h.squash w)).2 ⟨?_, fun u => ?_⟩, fun r _ hb => ?_⟩
  · simp [Nat.mod_eq_of_lt h.tail]
  · simp [hlive, State.slot_squash]
  · simp [State.reg_squash] at hb

theorem CommitOutcome.regsOk {s t : State} (h : s.Fit) (hs : s.RegsOk) (hc : CommitOutcome s t) : t.RegsOk := by
  have hstamp : s.stampCommit.RegsOk :=
    ⟨s.stampCommit_sameRing.ringOk hs.1, s.stampCommit_sameRing.regTagsOk
      (fun r hb => by rw [State.reg_stampCommit] at hb ⊢; exact ⟨hb, rfl⟩) hs.2⟩
  have hcount : s.stampCommit.storeCountdown.RegsOk :=
    ⟨s.stampCommit.storeCountdown_sameRing.ringOk hstamp.1, s.stampCommit.storeCountdown_sameRing.regTagsOk
      (fun r hb => ⟨hb, rfl⟩) hstamp.2⟩
  have hf := s.stampCommit_sameFetch
  cases hc with
  | stays => exact hs
  | unknown pc => exact (State.ExecFrame.raise s pc 0 (by decide) (by decide)).regsOk hs
  | retires hr =>
    have hring := s.stampCommit_sameRing.trans (s.stampCommit.commitReg_sameRing (destOfRecord s.headSlot.instr))
    have hne := (hf.trans (s.stampCommit.commitReg_sameFetch (destOfRecord s.headSlot.instr))).count ▸
      State.count_ne_zero_of_headReady hr
    refine State.popAndCount_regsOk (h.stampCommit.commitReg _) hne (State.commitReg_regsOk _ hstamp)
      fun r hd hb ht => ?_
    rw [hring.headInstr] at hd
    rw [State.reg_commitReg, if_pos hd] at hb ht
    have ht : (s.stampCommit.reg r).tag = s.stampCommit.rob.head :=
      ht.trans (hring.head.trans s.stampCommit_sameRing.head.symm)
    simp [ht] at hb
  | squashes hr hb hm =>
    refine State.squash_regsOk (h.stampCommit.sameArrays ?_) _
    exact ⟨rfl, rfl, rfl, rfl, rfl, rfl, rfl, rfl, rfl⟩
  | holds hr => exact hcount
  | stores hr hd =>
    have hring := s.stampCommit_sameRing.trans s.stampCommit.storeCountdown_sameRing
    have hne := (hf.trans s.stampCommit.storeCountdown_sameFetch).count ▸ State.count_ne_zero_of_headReady hr
    have hfit := h.stampCommit.storeCountdown
    generalize s.stampCommit.storeCountdown = u at hring hne hcount hfit ⊢
    obtain ⟨f, hx, e⟩ | ⟨ha, e⟩ := u.storeWrite_cases <;> rw [e]
    · exact (State.ExecFrame.raise u _ _ (accessFault_ne hx).1 (accessFault_ne hx).2).regsOk hcount
    · refine State.popAndCount_regsOk (hfit.storeWritten ha _) hne hcount fun r hd' _ _ => ?_
      have hd' : destOfRecord u.headSlot.instr = some r := hd'
      rw [hring.headInstr, hd] at hd'
      cases hd'

/-! ## Issue -/

section allocated

variable (s : State) (i : Instr) (c : UnitClass) (k : Nat) (r : Record)

/-- What an allocation leaves besides its slot, its entry and its destination (R109 to R113). -/
theorem State.allocated_fields : (s.allocated i c k r).cfg = s.cfg ∧ (s.allocated i c k r).rob.head = s.rob.head ∧
    (s.allocated i c k r).lanes = s.lanes ∧ (s.allocated i c k r).byp = s.byp := by
  unfold State.allocated State.renameDst
  cases dest? i <;> simp

theorem State.reg_allocated (q : RegName) :
    (s.allocated i c k r).reg q =
      if dest? i = some q then { s.reg q with tag := s.rob.tail, busy := true } else s.reg q := by
  have h0 (u : State) (b : Bool) : (u.advance b).reg q = u.reg q := by cases q <;> rfl
  have h1 (u : State) (e : RsRef) (t : Nat) (o : Operands) : (u.allocRs e r t o).reg q = u.reg q := by cases q <;> rfl
  unfold State.allocated State.renameDst
  rw [h0]
  cases dest? i with
  | none => rw [h1, State.reg_allocRob]; rfl
  | some d =>
    rw [State.reg_setReg, h1, State.reg_allocRob]
    by_cases hd : q = d
    · subst hd; simp [h1]
    · simp [hd, Ne.symm hd]

theorem State.slot_allocated (u : Nat) :
    (s.allocated i c k r).slot u =
      if u = s.rob.tail ∧ s.rob.tail < s.rob.slots.length then
        { live := true, instr := r, ready := false, value := 0, addr := 0, addrKnown := false, misPred := false,
          stctr := none, stage := .issue, ts := { (s.slot s.rob.tail).ts with issue := s.now } }
      else s.slot u := by
  have h0 : (s.allocated i c k r).slot u = (s.allocRob r).slot u := by
    unfold State.allocated State.renameDst
    cases dest? i with
    | none => rfl
    | some d => exact State.slot_setReg ..
  exact h0.trans (getD_set ..)

theorem State.entry_allocated (q : RsRef) :
    (s.allocated i c k r).entry q =
      if q = ⟨c.pool, k⟩ ∧ k < (s.rs.get c.pool).length then
        { busy := true, instr := r,
          op1 := (s.allocRob r).source (source1? i), op2 := (s.allocRob r).source (source2? i), tagD := s.rob.tail,
          addr := 0, addrKnown := false, inExec := false, id := s.nextId, remove := false }
      else s.entry q := by
  have h0 : (s.allocated i c k r).entry q =
      ((s.allocRob r).allocRs ⟨c.pool, k⟩ r s.rob.tail ⟨dest? i, source1? i, source2? i⟩).entry q := by
    unfold State.allocated State.renameDst
    cases dest? i with
    | none => rfl
    | some d => cases d <;> rfl
  exact h0.trans (State.entry_setEntry ..)

theorem State.allocated_age (u : Nat) : (s.allocated i c k r).age u = s.age u := by
  obtain ⟨hcfg, hhead, -⟩ := s.allocated_fields i c k r
  simp only [State.age, hcfg, hhead]

end allocated

section allocatedRing

variable {s : State} (h : s.Fit) {i : Instr} {c : UnitClass} {k : Nat} {r : Record} (hr : s.robFull = false)

include h hr

theorem State.count_lt_of_room : s.rob.count < s.cfg.robSize :=
  Nat.lt_of_le_of_ne h.count (by simpa [State.robFull] using hr)

/-- The tag the next instruction gets is the youngest (R14, R30). -/
theorem State.age_tail (hs : s.RingOk) : s.age s.rob.tail = s.rob.count := by
  rw [hs.1, State.age_tag h (State.count_lt_of_room h hr)]

theorem State.tail_not_mem_liveTags (hs : s.RingOk) : s.rob.tail ∉ s.liveTags := fun hm => by
  have ha := ((State.mem_liveTags_iff h).1 hm).2
  rw [State.age_tail h hr hs] at ha
  omega

theorem State.allocated_mem_liveTags (hs : s.RingOk) {u : Nat} :
    u ∈ (s.allocated i c k r).liveTags ↔ u ∈ s.liveTags ∨ u = s.rob.tail := by
  rw [State.mem_liveTags_iff (h.allocated hr), State.mem_liveTags_iff h, State.allocated_age,
    (s.allocated_advanced i c k r).cfg, (s.allocated_advanced i c k r).count]
  have ht := State.age_tail h hr hs
  constructor
  · rintro ⟨hu, ha⟩
    by_cases hc : s.age u < s.rob.count
    · exact .inl ⟨hu, hc⟩
    · exact .inr (State.age_inj h hu h.tail (by omega))
  · rintro (⟨hu, ha⟩ | rfl)
    · exact ⟨hu, by omega⟩
    · exact ⟨h.tail, by omega⟩

omit hr in
theorem State.allocated_slot_tail : (s.allocated i c k r).slot s.rob.tail =
    { live := true, instr := r, ready := false, value := 0, addr := 0, addrKnown := false, misPred := false,
      stctr := none, stage := .issue, ts := { (s.slot s.rob.tail).ts with issue := s.now } } := by
  rw [State.slot_allocated, if_pos ⟨rfl, h.slotCount ▸ h.tail⟩]

theorem State.allocated_slot_of_mem (hs : s.RingOk) {u : Nat} (hu : u ∈ s.liveTags) :
    (s.allocated i c k r).slot u = s.slot u := by
  rw [State.slot_allocated, if_neg]
  rintro ⟨rfl, -⟩
  exact State.tail_not_mem_liveTags h hr hs hu

theorem State.allocated_ringOk (hs : s.RingOk) : (s.allocated i c k r).RingOk := by
  have ha := s.allocated_advanced i c k r
  obtain ⟨ht, hl⟩ := (State.ringOk_iff h).1 hs
  refine (State.ringOk_iff (h.allocated hr)).2 ⟨?_, fun u => ?_⟩
  · rw [ha.tail, ha.count, ha.cfg, (s.allocated_fields i c k r).2.1, ht, Nat.mod_add_mod, Nat.add_assoc]
  · rw [State.allocated_mem_liveTags h hr hs]
    by_cases hu : u = s.rob.tail
    · subst hu
      simp [State.allocated_slot_tail h]
    · simp [State.slot_allocated, hu, hl u]

/-- An allocation makes its own destination's tag the youngest, and no other register's instruction older or dead. -/
theorem State.allocated_regsOk (hs : s.RegsOk) (hi : r.instr? = some i) : (s.allocated i c k r).RegsOk := by
  obtain ⟨hring, hregs⟩ := hs
  have htail := State.age_tail h hr hring
  refine ⟨State.allocated_ringOk h hr hring, (State.regTagsOk_iff _).2 fun q hb => ?_⟩
  simp only [State.allocated_mem_liveTags h hr hring, State.allocated_age]
  rw [State.reg_allocated] at hb ⊢
  by_cases hq : dest? i = some q
  · simp only [if_pos hq, State.allocated_slot_tail h, destOfRecord_eq hi]
    refine ⟨.inr trivial, hq, fun u hu _ => ?_⟩
    obtain hu | rfl := hu
    · exact htail ▸ ((State.mem_liveTags_iff h).1 hu).2.le
    · exact le_rfl
  · rw [if_neg hq] at hb ⊢
    obtain ⟨hlive, hdst, hyoung⟩ := (State.regTagsOk_iff s).1 hregs q hb
    rw [State.allocated_slot_of_mem h hr hring hlive]
    refine ⟨.inl hlive, hdst, fun u hu hud => ?_⟩
    obtain hu | rfl := hu
    · rw [State.allocated_slot_of_mem h hr hring hu] at hud
      exact hyoung u hu hud
    · rw [State.allocated_slot_tail h, destOfRecord_eq hi] at hud
      exact absurd hud hq

end allocatedRing

theorem IssueOutcome.regsOk {s t : State} (h : s.Fit) (hs : s.RegsOk) (hc : IssueOutcome s t) : t.RegsOk := by
  cases hc with
  | stops => exact hs
  | faults pc addr hf hu => exact (State.ExecFrame.raise s pc addr hf hu).regsOk hs
  | allocates hi hc hr hk => exact State.allocated_regsOk h hr hs hi

theorem State.stepKeeps_regsOk : StepKeeps fun s => s.Fit ∧ s.RegsOk where
  commit _ _ h hc := ⟨h.1.commitOutcome hc, hc.regsOk h.1 h.2⟩
  exec _ _ h hc := ⟨h.1.execChange hc, hc.frame.regsOk h.2⟩
  issue _ _ h hc := ⟨h.1.issueOutcome hc, hc.regsOk h.1 h.2⟩
  finalize _ h := ⟨h.1.finalize, h.2⟩
  tick _ h := ⟨State.stepKeeps_fit.tick _ h.1, h.2⟩

/-- Settles O48: allocation, pop and squash keep the ring and the register tags, and no other change writes them. -/
theorem registerTagsStayAuthoritative : Obligations.RegisterTagsStayAuthoritative := by
  unfold Obligations.RegisterTagsStayAuthoritative
  intro s t hs hregs h
  exact (State.stepKeeps_regsOk.step ⟨State.runnable_iff_fit.1 hs, hregs⟩ h).2

end Sys2Proof.Machine
end

section
/-! PROOFS. The tables of the instructions in flight in the middle of a cycle (10:R36 to R43): the pools and the slots
through every elementary change of W, X1, X2 and X3. -/

namespace Sys2Proof.Machine

/-! ## The invariants at every index -/

/-- A slot of unit `c` may serve the entry `q` (R42, R43). -/
structure State.Serves (s : State) (q : RsRef) (c : UnitClass) : Prop where
  busy : (s.entry q).busy = true
  inExec : (s.entry q).inExec = true
  unit : (s.entry q).instr.unitClass? = some c
  pool : q.pool = c.pool

theorem State.mem_slotRefs_of_busy {s : State} (h : s.Fit) {l : SlotRef} (hb : (s.slotView l).busy = true) :
    l ∈ s.slotRefs := by
  cases l with
  | timed c j =>
    have hj : j < s.cfg.lanes.get c := h.laneCount c ▸ State.lane_lt_of_busy hb
    have hc : c ∈ UnitClass.all := by cases c <;> decide
    simp [State.slotRefs, hc, hj]
  | bypass j =>
    have hj : j < s.byp.length := by
      by_contra hn
      simp [State.slotView, State.bypSlot, List.getElem?_eq_none (Nat.le_of_not_lt hn), BypSlot.empty] at hb
    simp [State.slotRefs, ← h.bypCount, hj]

theorem State.slotsOk_iff {s : State} (h : s.Fit) :
    s.SlotsOk ↔ (∀ l, (s.slotView l).busy = true → s.Serves (s.slotView l).rs l.unit) ∧
      ∀ l l', (s.slotView l).busy = true → (s.slotView l').busy = true →
        (s.slotView l).rs = (s.slotView l').rs → l = l' := by
  constructor
  · rintro ⟨hserve, hone⟩
    refine ⟨fun l hb => ?_, fun l l' hb hb' => ?_⟩
    · obtain ⟨h1, h2, h3, h4⟩ := hserve l (State.mem_slotRefs_of_busy h hb) hb
      exact ⟨h1, h2, h3, h4⟩
    · exact hone l (State.mem_slotRefs_of_busy h hb) l' (State.mem_slotRefs_of_busy h hb') hb hb'
  · rintro ⟨hserve, hone⟩
    refine ⟨fun l _ hb => ?_, fun l _ l' _ => hone l l'⟩
    have hl := hserve l hb
    exact ⟨hl.busy, hl.inExec, hl.unit, hl.pool⟩

theorem State.entry_lt_of_busy {s : State} {q : RsRef} (hb : (s.entry q).busy = true) :
    q.idx < (s.rs.get q.pool).length := by
  by_contra hn
  simp [State.entry, List.getElem?_eq_none (Nat.le_of_not_lt hn), RsEntry.empty] at hb

theorem State.mem_entryRefs_of_busy {s : State} (h : s.Fit) {q : RsRef} (hb : (s.entry q).busy = true) :
    q ∈ s.entryRefs := by
  have hp : q.pool ∈ Pool.all := by cases q.pool <;> decide
  have hi : q.idx < s.cfg.rsSize.get q.pool := h.poolSize q.pool ▸ State.entry_lt_of_busy hb
  simp only [State.entryRefs, List.mem_flatMap, List.mem_map, List.mem_range]
  exact ⟨q.pool, hp, q.idx, hi, rfl⟩

/-- The tag, the slot and the pool of a busy entry agree (R36, R38). -/
structure State.Placed (s : State) (q : RsRef) : Prop where
  live : (s.entry q).tagD ∈ s.liveTags
  instr : (s.slot (s.entry q).tagD).instr = (s.entry q).instr
  pool : (s.entry q).instr.unitClass?.map UnitClass.pool = some q.pool

theorem State.poolsOk_iff {s : State} (h : s.Fit) :
    s.PoolsOk ↔ (∀ q, (s.entry q).busy = true → s.Placed q) ∧
      ∀ q q', (s.entry q).busy = true → (s.entry q').busy = true → (s.entry q).tagD = (s.entry q').tagD → q = q' := by
  constructor
  · rintro ⟨hplace, hone⟩
    refine ⟨fun q hb => ?_, fun q q' hb hb' => ?_⟩
    · obtain ⟨h1, h2, h3⟩ := hplace q (State.mem_entryRefs_of_busy h hb) hb
      exact ⟨h1, h2, h3⟩
    · exact hone q (State.mem_entryRefs_of_busy h hb) q' (State.mem_entryRefs_of_busy h hb') hb hb'
  · rintro ⟨hplace, hone⟩
    refine ⟨fun q _ hb => ?_, fun q _ q' _ => hone q q'⟩
    have hq := hplace q hb
    exact ⟨hq.live, hq.instr, hq.pool⟩

theorem State.ExecFrame.poolsOk {s t : State} (h : s.ExecFrame t) (hs : s.Fit) (ht : t.Fit) (hp : s.PoolsOk) :
    t.PoolsOk := by
  obtain ⟨hplace, hone⟩ := (State.poolsOk_iff hs).1 hp
  refine (State.poolsOk_iff ht).2 ⟨fun q hb => ?_, fun q q' => ?_⟩
  · have hq := hplace q (h.busy q ▸ hb)
    refine ⟨?_, ?_, ?_⟩
    · rw [h.tagD, h.liveTags]; exact hq.live
    · rw [h.tagD, h.instr, h.entryInstr]; exact hq.instr
    · rw [h.entryInstr]; exact hq.pool
  · rw [h.busy, h.busy, h.tagD, h.tagD]
    exact hone q q'

/-! ## Slots after an update -/

theorem State.slotView_congr {s t : State} (hl : t.lanes = s.lanes) (hb : t.byp = s.byp) (l : SlotRef) :
    t.slotView l = s.slotView l := by
  cases l <;> simp only [State.slotView, State.lane, State.bypSlot, hl, hb]

theorem State.slotView_setLane (s : State) (c : UnitClass) (j : Nat) (x : Lane) (l : SlotRef) :
    (s.setLane c j x).slotView l =
      if l = .timed c j ∧ j < (s.lanes.get c).length then ⟨x.busy, x.rs, x.result, x.misPred, x.done⟩
      else s.slotView l := by
  cases l with
  | timed d k =>
    simp only [State.slotView, State.lane_setLane, SlotRef.timed.injEq]
    split_ifs <;> rfl
  | bypass k => simp only [reduceCtorEq, false_and, if_false]; rfl

theorem State.slotView_setByp (s : State) (j : Nat) (x : BypSlot) (l : SlotRef) :
    (s.setByp j x).slotView l =
      if l = .bypass j ∧ j < s.byp.length then ⟨x.busy, x.rs, x.result, false, x.done⟩ else s.slotView l := by
  cases l with
  | timed d k => simp only [reduceCtorEq, false_and, if_false]; rfl
  | bypass k =>
    simp only [State.slotView, State.bypSlot_setByp, SlotRef.bypass.injEq]
    split_ifs <;> rfl

theorem State.slotView_freeSlot (s : State) (l l' : SlotRef) :
    (s.freeSlot l).slotView l' =
      if l' = l then { s.slotView l with busy := false, done := false } else s.slotView l' := by
  cases l with
  | timed c j =>
    rw [State.freeSlot, State.slotView_setLane]
    by_cases hj : j < (s.lanes.get c).length
    · simp only [hj, and_true]
      rfl
    · have hl : s.slotView (.timed c j) = ⟨false, Lane.empty.rs, 0, false, false⟩ := by
        simp [State.slotView, State.lane, Nat.le_of_not_lt hj, Lane.empty]
      simp only [hj, and_false, if_false]
      split_ifs with h
      · rw [h, hl]
      · rfl
  | bypass j =>
    rw [State.freeSlot, State.slotView_setByp]
    by_cases hj : j < s.byp.length
    · simp only [hj, and_true]
      rfl
    · have hl : s.slotView (.bypass j) = ⟨false, BypSlot.empty.rs, 0, false, false⟩ := by
        simp [State.slotView, State.bypSlot, Nat.le_of_not_lt hj, BypSlot.empty]
      simp only [hj, and_false, if_false]
      split_ifs with h
      · rw [h, hl]
      · rfl

theorem State.slotView_writeResult (s : State) (l : SlotRef) (b : Bool) (l' : SlotRef) :
    (s.writeResult l b).slotView l' =
      if l' = l then { s.slotView l with busy := false, done := false } else s.slotView l' := by
  rw [← State.slotView_freeSlot]
  cases l <;> cases l' <;> rfl

theorem State.slotView_markExecuting (s : State) (q : RsRef) (l : SlotRef) :
    (s.markExecuting q).slotView l = s.slotView l := State.slotView_congr rfl rfl l

theorem State.slotView_generateAddress (s : State) (k : Nat) (imm : Word) (st : Bool) (l : SlotRef) :
    (s.generateAddress k imm st).slotView l = s.slotView l := by
  cases h : (s.entry ⟨.loadB, k⟩).wantsAddress
  · rw [State.generateAddress_skip h]
  · cases st
    · rw [State.generateAddress_load h]
      exact State.slotView_congr rfl rfl l
    · rw [State.generateAddress_store h]
      exact State.slotView_congr rfl rfl l

theorem State.slotView_bypassDone (s : State) (l : SlotRef) :
    (({ s with byp := s.byp.map BypSlot.finish } : State).slotView l).busy = (s.slotView l).busy ∧
      (({ s with byp := s.byp.map BypSlot.finish } : State).slotView l).rs = (s.slotView l).rs := by
  cases l with
  | timed c j => exact ⟨rfl, rfl⟩
  | bypass j =>
    have hj : ({ s with byp := s.byp.map BypSlot.finish } : State).bypSlot j = (s.bypSlot j).finish :=
      getD_map rfl s.byp j
    simp only [State.slotView, hj, BypSlot.finish]
    split_ifs <;> exact ⟨rfl, rfl⟩

/-! ## Entries after an update -/

theorem RsEntry.hear_marks (e : RsEntry) (t : Nat) (v : Word) :
    (e.hear t v).inExec = e.inExec ∧ (e.hear t v).remove = e.remove := by
  unfold RsEntry.hear
  split_ifs <;> exact ⟨rfl, rfl⟩

theorem State.entry_freeSlot (s : State) (l : SlotRef) (q : RsRef) : (s.freeSlot l).entry q = s.entry q := by
  cases l <;> rfl

theorem State.entry_writeResult (s : State) (l : SlotRef) (b : Bool) (q : RsRef) :
    (s.writeResult l b).entry q =
      if q = (s.slotView l).rs ∧ (s.slotView l).rs.idx < (s.rs.get (s.slotView l).rs.pool).length then
        { (s.entry q).hear (s.tagOf l) (s.slotView l).result with remove := true }
      else (s.entry q).hear (s.tagOf l) (s.slotView l).result := by
  rw [State.writeResult_eq, State.entry_freeSlot, State.entry_setEntry, State.entry_setSlot, State.entry_hearAll,
    State.setSlot_rs, State.length_mapEntries]
  split_ifs with h
  · rw [h.1]
  · rfl

theorem State.entry_markExecuting (s : State) (ref q : RsRef) :
    (s.markExecuting ref).entry q =
      if q = ref ∧ ref.idx < (s.rs.get ref.pool).length then { s.entry ref with inExec := true } else s.entry q := by
  rw [State.markExecuting_eq, State.entry_setSlot, State.entry_setEntry]

theorem State.entry_generateAddress_marks (s : State) (k : Nat) (imm : Word) (st : Bool) (q : RsRef) :
    ((s.generateAddress k imm st).entry q).inExec = (s.entry q).inExec ∧
      ((s.generateAddress k imm st).entry q).remove = (s.entry q).remove := by
  have hset (x : RsEntry) (hx : x.inExec = (s.entry ⟨.loadB, k⟩).inExec ∧ x.remove = (s.entry ⟨.loadB, k⟩).remove) :
      ((s.setEntry ⟨.loadB, k⟩ x).entry q).inExec = (s.entry q).inExec ∧
        ((s.setEntry ⟨.loadB, k⟩ x).entry q).remove = (s.entry q).remove := by
    rw [State.entry_setEntry]
    split_ifs with hq
    · exact hq.1 ▸ hx
    · exact ⟨rfl, rfl⟩
  cases h : (s.entry ⟨.loadB, k⟩).wantsAddress
  · rw [State.generateAddress_skip h]
    exact ⟨rfl, rfl⟩
  · cases st
    · rw [State.generateAddress_load h]
      exact hset _ ⟨rfl, rfl⟩
    · rw [State.generateAddress_store h, State.entry_setSlot]
      exact hset _ ⟨rfl, rfl⟩

/-- An entry in execution stays there (R120). -/
theorem ExecChange.inExec {s t : State} (h : ExecChange s t) {q : RsRef} (hq : (s.entry q).inExec = true) :
    (t.entry q).inExec = true := by
  have hmark (u : State) (ref : RsRef) (hu : (u.entry q).inExec = true) :
      ((u.markExecuting ref).entry q).inExec = true := by
    rw [State.entry_markExecuting]
    split_ifs
    · rfl
    · exact hu
  cases h with
  | turn τ => exact hq
  | raise pc addr hf hu => exact hq
  | broadcast hd =>
    rw [State.entry_writeResult]
    split_ifs <;> exact (RsEntry.hear_marks _ _ _).1.trans hq
  | address k imm st => exact (s.entry_generateAddress_marks k imm st q).1.trans hq
  | startLane ho hi hj => exact hmark _ _ hq
  | startBypass v ho hi hj => exact hmark _ _ hq
  | count hb hd ht => exact hq
  | finish v m hb hd ht => exact hq
  | laneFault pc addr hb hf hu => exact hq
  | bypassDone => exact hq

/-- What an entry serves, it serves still. -/
theorem ExecChange.serves {s t : State} (h : ExecChange s t) {q : RsRef} {c : UnitClass} (hq : s.Serves q c) :
    t.Serves q c :=
  ⟨(h.frame.busy q).trans hq.busy, h.inExec hq.inExec, h.frame.entryInstr q ▸ hq.unit, hq.pool⟩

/-! ## The slots -/

/-- Slots that are only freed keep the invariant while the entries they serve stay in execution. -/
theorem State.slotsOk_of_subset {s t : State} (hs : s.Fit) (ht : t.Fit) (h : s.SlotsOk)
    (hslot : ∀ l, (t.slotView l).busy = true → (s.slotView l).busy = true ∧ (t.slotView l).rs = (s.slotView l).rs)
    (hent : ∀ l, (t.slotView l).busy = true → s.Serves (s.slotView l).rs l.unit → t.Serves (s.slotView l).rs l.unit) :
    t.SlotsOk := by
  obtain ⟨hserve, hone⟩ := (State.slotsOk_iff hs).1 h
  refine (State.slotsOk_iff ht).2 ⟨fun l hb => ?_, fun l l' hb hb' he => ?_⟩
  · obtain ⟨hb', hrs⟩ := hslot l hb
    exact hrs ▸ hent l hb (hserve l hb')
  · obtain ⟨hsb, hrs⟩ := hslot l hb
    obtain ⟨hsb', hrs'⟩ := hslot l' hb'
    exact hone l l' hsb hsb' (hrs ▸ hrs' ▸ he)

/-- A free slot that takes an entry not yet in execution keeps the invariant (R42, R43). -/
theorem State.slotsOk_of_start {s t : State} (hs : s.Fit) (ht : t.Fit) (h : s.SlotsOk) {l₀ : SlotRef} {ref : RsRef}
    (hother : ∀ l, l ≠ l₀ → t.slotView l = s.slotView l) (hnew : (t.slotView l₀).rs = ref)
    (hent : ∀ q c, s.Serves q c → t.Serves q c) (href : t.Serves ref l₀.unit) (hfree : (s.entry ref).inExec = false) :
    t.SlotsOk := by
  obtain ⟨hserve, hone⟩ := (State.slotsOk_iff hs).1 h
  have hne (l : SlotRef) (hl : l ≠ l₀) (hb : (t.slotView l).busy = true) : (t.slotView l).rs ≠ ref := fun he => by
    rw [hother l hl] at hb he
    exact Bool.noConfusion (hfree.symm.trans (he ▸ (hserve l hb).inExec))
  refine (State.slotsOk_iff ht).2 ⟨fun l hb => ?_, fun l l' hb hb' he => ?_⟩
  · by_cases hl : l = l₀
    · subst hl
      exact hnew ▸ href
    · rw [hother l hl] at hb ⊢
      exact hent _ _ (hserve l hb)
  · by_cases hl : l = l₀
    · by_cases hl' : l' = l₀
      · exact hl.trans hl'.symm
      · exact absurd (he.symm.trans (hl ▸ hnew)) (hne l' hl' hb')
    · by_cases hl' : l' = l₀
      · exact absurd (he.trans (hl' ▸ hnew)) (hne l hl hb)
      · rw [hother l hl] at hb he
        rw [hother l' hl'] at hb' he
        exact hone l l' hb hb' he

theorem State.markExecuting_serves {s : State} (h : s.Fit) {ref : RsRef} {c : UnitClass} (ho : s.Offered c ref)
    (hi : ref.inRange s.cfg = true) : (s.markExecuting ref).Serves ref c := by
  obtain ⟨hpool, hunit, hbusy, -⟩ := ho
  have hlt : ref.idx < (s.rs.get ref.pool).length := by
    rw [h.poolSize]
    simpa [RsRef.inRange] using hi
  refine ⟨?_, ?_, ?_, hpool⟩ <;> rw [State.entry_markExecuting, if_pos ⟨rfl, hlt⟩]
  · exact hbusy
  · exact hunit

theorem State.freeLane_spec {s : State} {c : UnitClass} {j : Nat} (h : s.freeLane c = some j) :
    j < (s.lanes.get c).length ∧ (s.lane c j).busy = false := by
  obtain ⟨-, x, hx, hp, -⟩ := firstIdx_spec h
  rw [Nat.sub_zero] at hx
  exact ⟨(List.getElem?_eq_some_iff.1 hx).1, by simpa [State.lane, hx] using hp⟩

theorem State.freeByp_spec {s : State} {j : Nat} (h : s.freeByp = some j) :
    j < s.byp.length ∧ (s.bypSlot j).busy = false ∧ ∀ m < j, (s.bypSlot m).busy = true := by
  obtain ⟨-, x, hx, hp, hmin⟩ := firstIdx_spec h
  simp only [Nat.sub_zero] at hx hmin
  have hj : j < s.byp.length := (List.getElem?_eq_some_iff.1 hx).1
  refine ⟨hj, by simpa [State.bypSlot, hx] using hp, fun m hm => ?_⟩
  have hm' : m < s.byp.length := hm.trans hj
  simpa [State.bypSlot, List.getElem?_eq_getElem hm'] using hmin m hm _ (List.getElem?_eq_getElem hm')

/-- The busy slots after a change: they were busy with the same entries, or one of them is new and serves an entry that
was not in execution. -/
theorem ExecChange.slot_cases {s t : State} (hs : s.Fit) (hc : ExecChange s t) :
    (∀ l, (t.slotView l).busy = true → (s.slotView l).busy = true ∧ (t.slotView l).rs = (s.slotView l).rs) ∨
    ∃ l₀ ref, (∀ l, l ≠ l₀ → t.slotView l = s.slotView l) ∧ (t.slotView l₀).rs = ref ∧ t.Serves ref l₀.unit ∧
      (s.entry ref).inExec = false := by
  have hlane {c : UnitClass} {j : Nat} {x : Lane} (hrs : x.rs = (s.lane c j).rs) (hb : (s.lane c j).busy = true)
      (l : SlotRef) : ((s.setLane c j x).slotView l).busy = true →
        (s.slotView l).busy = true ∧ ((s.setLane c j x).slotView l).rs = (s.slotView l).rs := by
    rw [State.slotView_setLane]
    split_ifs with hl
    · obtain ⟨rfl, -⟩ := hl
      exact fun _ => ⟨hb, hrs⟩
    · exact fun hl => ⟨hl, rfl⟩
  cases hc with
  | turn τ => exact .inl fun l hl => ⟨hl, rfl⟩
  | raise pc addr hf hu => exact .inl fun l hl => ⟨hl, rfl⟩
  | broadcast hd =>
    refine .inl fun l => ?_
    rw [State.slotView_writeResult]
    split_ifs
    · exact nofun
    · exact fun hl => ⟨hl, rfl⟩
  | address k imm st =>
    refine .inl fun l => ?_
    rw [State.slotView_generateAddress]
    exact fun hl => ⟨hl, rfl⟩
  | @startLane c ref j ho hi hj =>
    refine .inr ⟨.timed c j, ref, fun l hl => ?_, ?_, State.markExecuting_serves (hs.setLane c j hi le_rfl) ho hi,
      ho.2.2.2.1⟩
    · rw [State.slotView_markExecuting, State.slotView_setLane, if_neg fun hx => hl hx.1]
    · rw [State.slotView_markExecuting, State.slotView_setLane, if_pos ⟨rfl, (State.freeLane_spec hj).1⟩]
  | @startBypass ref j v ho hi hj =>
    refine .inr ⟨.bypass j, ref, fun l hl => ?_, ?_, State.markExecuting_serves (hs.setByp j hi) ho hi, ho.2.2.2.1⟩
    · rw [State.slotView_markExecuting, State.slotView_setByp, if_neg fun hx => hl hx.1]
    · rw [State.slotView_markExecuting, State.slotView_setByp, if_pos ⟨rfl, (State.freeByp_spec hj).1⟩]
  | count hb hd ht =>
    refine .inl fun l => hlane ?_ hb l
    rfl
  | finish v m hb hd ht =>
    refine .inl fun l => hlane ?_ hb l
    rfl
  | laneFault pc addr hb hf hu =>
    refine .inl fun l => hlane ?_ hb l
    rfl
  | bypassDone =>
    refine .inl fun l => ?_
    obtain ⟨hb, hrs⟩ := s.slotView_bypassDone l
    exact fun hl => ⟨hb ▸ hl, hrs⟩

theorem ExecChange.slotsOk {s t : State} (hs : s.Fit) (h : s.SlotsOk) (hc : ExecChange s t) : t.SlotsOk := by
  have ht := hs.execChange hc
  have hserves : ∀ q c, s.Serves q c → t.Serves q c := fun _ _ => hc.serves
  obtain hslot | ⟨l₀, ref, hother, hnew, href, hfree⟩ := hc.slot_cases hs
  · exact State.slotsOk_of_subset hs ht h hslot fun _ _ => hserves _ _
  · exact State.slotsOk_of_start hs ht h hother hnew hserves href hfree

/-- A run keeps a runnable state and the tables (R30, R36, R38, R42). -/
theorem ExecRun.tablesOk {s t : State} (h : s.Fit ∧ s.TablesOk) (hr : ExecRun s t) : t.Fit ∧ t.TablesOk := by
  refine hr.keeps (P := fun u => u.Fit ∧ u.TablesOk) (fun u v hu hc => ?_) h
  obtain ⟨hf, hring, hpools, hslots⟩ := hu
  have hv := hf.execChange hc
  exact ⟨hv, hc.frame.ringOk hring, hc.frame.poolsOk hf hv hpools, hc.slotsOk hf hslots⟩

end Sys2Proof.Machine
end

section
/-! PROOFS. The in-flight invariant (10:R30, R36 to R43) through C, and in the weaker form that holds in the middle of a
cycle through the later phases. -/

namespace Sys2Proof.Machine

theorem State.mem_entryRefs {s : State} {q : RsRef} : q ∈ s.entryRefs ↔ q.idx < s.cfg.rsSize.get q.pool := by
  have hp : q.pool ∈ Pool.all := by cases q.pool <;> decide
  simp only [State.entryRefs, List.mem_flatMap, List.mem_map, List.mem_range]
  constructor
  · rintro ⟨p, -, k, hk, rfl⟩
    exact hk
  · exact fun hi => ⟨q.pool, hp, q.idx, hi, rfl⟩

theorem State.entriesOk_iff {s : State} (h : s.Fit) :
    s.EntriesOk ↔ s.PoolsOk ∧ (∀ q, (s.entry q).remove = false) ∧
      ∀ q, (s.entry q).busy = true → (s.slot (s.entry q).tagD).ready = false := by
  refine and_congr_right fun _ => ⟨fun hq => ⟨fun q => ?_, fun q hb => ?_⟩, fun ⟨hr, hw⟩ q _ => ⟨hr q, hw q⟩⟩
  · by_cases hm : q ∈ s.entryRefs
    · exact (hq q hm).1
    · have hlen : (s.rs.get q.pool).length ≤ q.idx := by
        rw [h.poolSize]
        exact Nat.le_of_not_lt (mt State.mem_entryRefs.2 hm)
      simp [State.entry, hlen, RsEntry.empty]
  · exact (hq q (State.mem_entryRefs_of_busy h hb)).2 hb

theorem State.lanesLegal_iff (s : State) :
    s.LanesLegal ↔ (∀ c j, (s.lane c j).Legal (s.cfg.lat.get c)) ∧ ∀ j, (s.bypSlot j).busy = (s.bypSlot j).done := by
  have hl (c : UnitClass) : Lane.empty.Legal (s.cfg.lat.get c) := .inl ⟨rfl, rfl, rfl⟩
  refine and_congr ?_ (forall_getD_iff (P := fun b : BypSlot => b.busy = b.done) (d := BypSlot.empty) rfl).symm
  rw [← UnitClass.forall_iff (P := fun c => ∀ l ∈ s.lanes.get c, l.Legal (s.cfg.lat.get c))]
  exact forall_congr' fun c => (forall_getD_iff (P := fun l : Lane => l.Legal (s.cfg.lat.get c)) (hl c)).symm

/-! ## C -/

theorem State.setSlot_slot_ready (s : State) (u : Nat) {x : RobSlot} (hx : x.ready = (s.slot u).ready) (v : Nat) :
    ((s.setSlot u x).slot v).ready = (s.slot v).ready := by
  rw [State.slot_setSlot]
  split_ifs with h
  · exact h.1 ▸ hx
  · rfl

theorem State.stampCommit_slot_ready (s : State) (u : Nat) : (s.stampCommit.slot u).ready = (s.slot u).ready := by
  obtain h | h := s.stampCommit_cases <;> rw [h]
  refine s.setSlot_slot_ready s.rob.head ?_ u
  rfl

theorem State.storeCountdown_slot_ready (s : State) (u : Nat) : (s.storeCountdown.slot u).ready = (s.slot u).ready :=
  s.setSlot_slot_ready s.rob.head
    (x := { s.headSlot with stctr := some (s.headSlot.stctr.getD s.cfg.lat.memory - 1) }) rfl u

theorem State.commitReg_slot_ready (s : State) (dst : Option RegName) (u : Nat) :
    ((s.commitReg dst).slot u).ready = (s.slot u).ready := by
  cases dst <;> simp [State.commitReg]

theorem State.SameRing.headReady {s t : State} (h : s.SameRing t) (hr : ∀ u, (t.slot u).ready = (s.slot u).ready)
    (hs : s.headReady = true) : t.rob.count ≠ 0 ∧ t.headSlot.ready = true := by
  simp only [State.headReady, State.headSlot, Bool.and_eq_true, bne_iff_ne] at hs ⊢
  rwa [h.count, h.head, hr]

/-- What C leaves to the instructions in flight unless it squashes: their entries, lanes and slots, and the ROB slots
that are not ready yet (R38, R161). -/
structure State.CommitFrame (s t : State) : Prop where
  cfg : t.cfg = s.cfg
  rs : t.rs = s.rs
  lanes : t.lanes = s.lanes
  byp : t.byp = s.byp
  ring : s.RingOk → t.RingOk
  waiting : ∀ u ∈ s.liveTags, (s.slot u).ready = false →
    u ∈ t.liveTags ∧ (t.slot u).instr = (s.slot u).instr ∧ (t.slot u).ready = false

namespace State.CommitFrame

variable {s t : State}

theorem trans {u : State} (h : s.CommitFrame t) (h' : t.CommitFrame u) : s.CommitFrame u where
  cfg := h'.cfg.trans h.cfg
  rs := h'.rs.trans h.rs
  lanes := h'.lanes.trans h.lanes
  byp := h'.byp.trans h.byp
  ring hs := h'.ring (h.ring hs)
  waiting v hv hr := by
    obtain ⟨hv, hi, hr⟩ := h.waiting v hv hr
    obtain ⟨hv, hi', hr⟩ := h'.waiting v hv hr
    exact ⟨hv, hi'.trans hi, hr⟩

theorem ofRing (h : s.SameRing t) (hrs : t.rs = s.rs) (hl : t.lanes = s.lanes) (hb : t.byp = s.byp)
    (hr : ∀ u, (t.slot u).ready = (s.slot u).ready) : s.CommitFrame t where
  cfg := h.cfg
  rs := hrs
  lanes := hl
  byp := hb
  ring := h.ringOk
  waiting u hu hn := ⟨h.liveTags ▸ hu, h.instr u, (hr u).trans hn⟩

theorem refl (s : State) : s.CommitFrame s := ofRing (.refl s) rfl rfl rfl fun _ => rfl

theorem raise (s : State) (f : FaultCode) (pc addr : Word) : s.CommitFrame (s.raise f pc addr) :=
  ofRing (.ofRob rfl rfl) rfl rfl rfl fun _ => rfl

theorem stampCommit (s : State) : s.CommitFrame s.stampCommit := by
  refine ofRing s.stampCommit_sameRing ?_ ?_ ?_ s.stampCommit_slot_ready <;> obtain h | h := s.stampCommit_cases <;>
    rw [h] <;> rfl

theorem storeCountdown (s : State) : s.CommitFrame s.storeCountdown :=
  ofRing s.storeCountdown_sameRing rfl rfl rfl s.storeCountdown_slot_ready

theorem commitReg (s : State) (dst : Option RegName) : s.CommitFrame (s.commitReg dst) := by
  refine ofRing (s.commitReg_sameRing dst) ?_ ?_ ?_ (s.commitReg_slot_ready dst) <;> cases dst <;>
    simp [State.commitReg]

/-- A pop takes a slot no pending instruction owns, since it is ready (R33, R160). -/
theorem popAndCount (h : s.Fit) (hc : s.rob.count ≠ 0) (hr : s.headSlot.ready = true) :
    s.CommitFrame s.popAndCount where
  cfg := s.popAndCount_sameSetup.1
  rs := by rw [State.popAndCount_of_ne hc]
  lanes := by rw [State.popAndCount_of_ne hc]
  byp := by rw [State.popAndCount_of_ne hc]
  ring := State.popAndCount_ringOk h hc
  waiting u hu hn := by
    have hne : u ≠ s.rob.head := by
      rintro rfl
      exact Bool.noConfusion (hn.symm.trans hr)
    rw [State.popAndCount_mem_liveTags h hc, State.popAndCount_slot h hc, if_neg hne]
    exact ⟨⟨hu, hne⟩, rfl, hn⟩

theorem inFlightOk (h : s.CommitFrame t) (hs : s.Fit) (ht : t.Fit) (hi : s.InFlightOk) : t.InFlightOk := by
  obtain ⟨hring, hlanes, hslots, hentries⟩ := hi
  obtain ⟨hpools, hremove, hready⟩ := (State.entriesOk_iff hs).1 hentries
  obtain ⟨hplace, hone⟩ := (State.poolsOk_iff hs).1 hpools
  have hentry : t.entry = s.entry := by funext q; simp only [State.entry, h.rs]
  have hview := State.slotView_congr h.lanes h.byp
  refine ⟨h.ring hring, ?_, ?_, (State.entriesOk_iff ht).2 ⟨(State.poolsOk_iff ht).2 ⟨fun q hb => ?_, ?_⟩, ?_, ?_⟩⟩
  · simpa only [State.LanesLegal, h.lanes, h.byp, h.cfg] using hlanes
  · refine State.slotsOk_of_subset hs ht hslots (fun l hb => ?_) fun l _ hl => ?_
    · rw [hview] at hb ⊢
      exact ⟨hb, rfl⟩
    · exact ⟨hentry ▸ hl.busy, hentry ▸ hl.inExec, hentry ▸ hl.unit, hl.pool⟩
  · rw [hentry] at hb
    have hq := hplace q hb
    obtain ⟨hl, hi, -⟩ := h.waiting _ hq.live (hready q hb)
    refine ⟨?_, ?_, ?_⟩ <;> rw [hentry]
    · exact hl
    · exact hi.trans hq.instr
    · exact hq.pool
  · simpa only [hentry] using hone
  · simpa only [hentry] using hremove
  · intro q hb
    rw [hentry] at hb ⊢
    exact (h.waiting _ (hplace q hb).live (hready q hb)).2.2

end State.CommitFrame

/-- A squash leaves nothing in flight (R170). -/
theorem State.squash_inFlightOk {s : State} (h : s.Fit) (w : Word) : (s.squash w).InFlightOk := by
  have ht := h.squash w
  have hview (l : SlotRef) : ((s.squash w).slotView l).busy = false := by
    cases l <;> simp [State.slotView, State.lane_squash, State.bypSlot_squash, Lane.clear, BypSlot.clear]
  have hentry (q : RsRef) : ((s.squash w).entry q).busy = false ∧ ((s.squash w).entry q).remove = false := by
    rw [State.entry_squash]
    exact ⟨rfl, rfl⟩
  refine ⟨(State.squash_regsOk h w).1, (State.lanesLegal_iff _).2 ⟨fun c j => ?_, fun j => ?_⟩,
    (State.slotsOk_iff ht).2 ⟨?_, ?_⟩, (State.entriesOk_iff ht).2 ⟨(State.poolsOk_iff ht).2 ⟨?_, ?_⟩, ?_, ?_⟩⟩
  · rw [State.lane_squash]
    exact .inl ⟨rfl, rfl, rfl⟩
  · rw [State.bypSlot_squash]
    rfl
  all_goals simp [hview, hentry]

theorem CommitOutcome.inFlightOk {s t : State} (h : s.Fit) (hi : s.InFlightOk) (hc : CommitOutcome s t) :
    t.InFlightOk := by
  have ht := h.commitOutcome hc
  suffices t.InFlightOk ∨ s.CommitFrame t from this.elim id fun hf => hf.inFlightOk h ht hi
  have hstamp := State.CommitFrame.stampCommit s
  cases hc with
  | stays => exact .inl hi
  | unknown pc => exact .inr (.raise s _ pc 0)
  | retires hr =>
    have hring := s.stampCommit_sameRing.trans (s.stampCommit.commitReg_sameRing (destOfRecord s.headSlot.instr))
    obtain ⟨hne, hrd⟩ := hring.headReady
      (fun u => (State.commitReg_slot_ready _ _ u).trans (s.stampCommit_slot_ready u)) hr
    exact .inr ((hstamp.trans (.commitReg _ _)).trans (.popAndCount (h.stampCommit.commitReg _) hne hrd))
  | squashes hr hb hm =>
    refine .inl (State.squash_inFlightOk (h.stampCommit.sameArrays ?_) _)
    exact ⟨rfl, rfl, rfl, rfl, rfl, rfl, rfl, rfl, rfl⟩
  | holds hr => exact .inr (hstamp.trans (.storeCountdown _))
  | stores hr hd =>
    have hring := s.stampCommit_sameRing.trans s.stampCommit.storeCountdown_sameRing
    obtain ⟨hne, hrd⟩ := hring.headReady
      (fun u => (State.storeCountdown_slot_ready _ u).trans (s.stampCommit_slot_ready u)) hr
    refine .inr ((hstamp.trans (.storeCountdown _)).trans ?_)
    obtain ⟨f, -, e⟩ | ⟨ha, e⟩ := s.stampCommit.storeCountdown.storeWrite_cases <;> rw [e]
    · exact .raise _ f _ _
    · refine .trans (.ofRing (.ofRob ?_ ?_) ?_ ?_ ?_ ?_)
        (.popAndCount (h.stampCommit.storeCountdown.storeWritten ha _) hne hrd)
      all_goals intros; rfl

theorem commitPhase_inFlightOk {s t : State} (h : s.Fit ∧ s.InFlightOk) (hc : commitPhase s = .next t) :
    t.Fit ∧ t.InFlightOk := by
  obtain ⟨τ, ho⟩ := commitPhase_outcome hc
  have hf := h.1.withTurn τ
  exact ⟨hf.commitOutcome ho, ho.inFlightOk hf h.2⟩

/-! ## The middle of a cycle -/

/-- The in-flight invariant from W to I: the tables agree; lanes are free, counting or done; what is done is busy; an
entry marked for removal is in execution and no slot serves it any more; any other busy entry's slot is not ready. -/
structure State.MidCycleOk (s : State) : Prop where
  tables : s.TablesOk
  lanes : ∀ c j, (s.lane c j).Legal (s.cfg.lat.get c)
  byp : ∀ j, (s.bypSlot j).done = true → (s.bypSlot j).busy = true
  served : ∀ l, (s.slotView l).busy = true → (s.entry (s.slotView l).rs).remove = false
  removed : ∀ q, (s.entry q).busy = true → (s.entry q).remove = true → (s.entry q).inExec = true
  pending : ∀ q, (s.entry q).busy = true → (s.entry q).remove = false → (s.slot (s.entry q).tagD).ready = false

theorem State.InFlightOk.midCycleOk {s : State} (hs : s.Fit) (h : s.InFlightOk) : s.MidCycleOk := by
  obtain ⟨hring, hlanes, hslots, hentries⟩ := h
  obtain ⟨hpools, hremove, hready⟩ := (State.entriesOk_iff hs).1 hentries
  obtain ⟨hl, hb⟩ := s.lanesLegal_iff.1 hlanes
  exact ⟨⟨hring, hpools, hslots⟩, hl, fun j => (hb j).trans, fun l _ => hremove _,
    fun q _ hr => absurd ((hremove q).symm.trans hr) nofun, fun q hq _ => hready q hq⟩

/-- A done slot is busy (R41, R144). -/
theorem State.MidCycleOk.busy_of_done {s : State} (h : s.MidCycleOk) {l : SlotRef} (hd : (s.slotView l).done = true) :
    (s.slotView l).busy = true := by
  cases l with
  | timed c j =>
    obtain ⟨-, -, hn⟩ | ⟨-, -, -, hn⟩ | ⟨hb, -, -⟩ := h.lanes c j
    · exact absurd (hn.symm.trans hd) nofun
    · exact absurd (hn.symm.trans hd) nofun
    · exact hb
  | bypass j => exact h.byp j hd

theorem State.slot_freeSlot (s : State) (l : SlotRef) (u : Nat) : (s.freeSlot l).slot u = s.slot u := by
  cases l <;> rfl

/-- Writeback changes no slot but that of the broadcast's tag (R152). -/
theorem State.slot_writeResult_other (s : State) (l : SlotRef) (b : Bool) {u : Nat} (hu : u ≠ s.tagOf l) :
    (s.writeResult l b).slot u = s.slot u := by
  rw [State.writeResult_eq, State.slot_freeSlot, State.slot_setEntry, State.slot_setSlot, if_neg fun h => hu h.1.symm]
  rfl

theorem State.generateAddress_slot_ready (s : State) (k : Nat) (imm : Word) (st : Bool) (u : Nat) :
    ((s.generateAddress k imm st).slot u).ready = (s.slot u).ready := by
  cases h : (s.entry ⟨.loadB, k⟩).wantsAddress
  · rw [State.generateAddress_skip h]
  · cases st
    · rw [State.generateAddress_load h, State.slot_setEntry]
    · rw [State.generateAddress_store h]
      refine State.setSlot_slot_ready _ _ ?_ u
      rfl

/-- No change but a broadcast marks an entry or makes a slot ready (R139, R150 to R153). -/
theorem ExecChange.marks {s t : State} (h : ExecChange s t) :
    (∃ l b, (s.slotView l).done = true ∧ t = s.writeResult l b) ∨
    ((∀ q, (t.entry q).remove = (s.entry q).remove) ∧ ∀ u, (t.slot u).ready = (s.slot u).ready) := by
  have hmark (u : State) (ref : RsRef) : (∀ q, ((u.markExecuting ref).entry q).remove = (u.entry q).remove) ∧
      ∀ v, ((u.markExecuting ref).slot v).ready = (u.slot v).ready := by
    refine ⟨fun q => ?_, fun v => ?_⟩
    · rw [State.entry_markExecuting]
      split_ifs with hq
      · exact hq.1 ▸ rfl
      · rfl
    · rw [State.markExecuting_eq]
      refine State.setSlot_slot_ready _ _ ?_ v
      rfl
  cases h with
  | turn τ => exact .inr ⟨fun _ => rfl, fun _ => rfl⟩
  | raise pc addr hf hu => exact .inr ⟨fun _ => rfl, fun _ => rfl⟩
  | broadcast hd => exact .inl ⟨_, _, hd, rfl⟩
  | address k imm st =>
    refine .inr ⟨fun q => (s.entry_generateAddress_marks k imm st q).2, fun u => ?_⟩
    exact s.generateAddress_slot_ready k imm st u
  | startLane ho hi hj => exact .inr (hmark _ _)
  | startBypass v ho hi hj => exact .inr (hmark _ _)
  | count hb hd ht => exact .inr ⟨fun _ => rfl, fun _ => rfl⟩
  | finish v m hb hd ht => exact .inr ⟨fun _ => rfl, fun _ => rfl⟩
  | laneFault pc addr hb hf hu => exact .inr ⟨fun _ => rfl, fun _ => rfl⟩
  | bypassDone => exact .inr ⟨fun _ => rfl, fun _ => rfl⟩

theorem State.generateAddress_units (s : State) (k : Nat) (imm : Word) (st : Bool) :
    (s.generateAddress k imm st).lanes = s.lanes ∧ (s.generateAddress k imm st).byp = s.byp := by
  cases h : (s.entry ⟨.loadB, k⟩).wantsAddress
  · rw [State.generateAddress_skip h]
    exact ⟨rfl, rfl⟩
  · cases st
    · rw [State.generateAddress_load h]
      exact ⟨rfl, rfl⟩
    · rw [State.generateAddress_store h]
      exact ⟨rfl, rfl⟩

/-- The lanes in the middle of a cycle: each is free, counting or done, and a bypass slot that is done is busy. -/
abbrev State.UnitsOk (s : State) : Prop :=
  (∀ c j, (s.lane c j).Legal (s.cfg.lat.get c)) ∧ ∀ j, (s.bypSlot j).done = true → (s.bypSlot j).busy = true

theorem State.UnitsOk.setLane {s : State} (h : s.UnitsOk) {c : UnitClass} {j : Nat} {x : Lane}
    (hx : x.Legal (s.cfg.lat.get c)) : (s.setLane c j x).UnitsOk := by
  refine ⟨fun d k => ?_, h.2⟩
  rw [State.lane_setLane]
  split_ifs with hd
  · exact hd.1.1 ▸ hx
  · exact h.1 d k

theorem State.UnitsOk.setByp {s : State} (h : s.UnitsOk) {j : Nat} {x : BypSlot} (hx : x.done = true → x.busy = true) :
    (s.setByp j x).UnitsOk := by
  refine ⟨h.1, fun k => ?_⟩
  rw [State.bypSlot_setByp]
  split_ifs
  · exact hx
  · exact h.2 k

theorem ExecChange.unitsOk {s t : State} (hs : s.Fit) (h : s.UnitsOk) (hc : ExecChange s t) (hf : t.fault = .noFault) :
    t.UnitsOk := by
  cases hc with
  | turn τ => exact h
  | raise pc addr hf' hu => exact absurd hf hf'
  | @broadcast l hd =>
    suffices (s.freeSlot l).UnitsOk by cases l <;> exact this
    cases l with
    | timed c j =>
      refine h.setLane ?_
      exact .inl ⟨rfl, rfl, rfl⟩
    | bypass j =>
      refine h.setByp ?_
      exact nofun
  | address k imm st =>
    obtain ⟨hl, hb⟩ := s.generateAddress_units k imm st
    simpa only [State.UnitsOk, State.lane, State.bypSlot, hl, hb, (s.generateAddress_sameSetup k imm st).1] using h
  | @startLane c ref j ho hi hj =>
    have hx : (⟨true, ref, s.cfg.lat.get c, 0, false, false⟩ : Lane).Legal (s.cfg.lat.get c) :=
      .inr (.inl ⟨rfl, Config.lat_pos hs.wf c, le_rfl, rfl⟩)
    exact h.setLane hx
  | @startBypass ref j v ho hi hj => exact h.setByp (x := ⟨true, ref, v, false⟩) nofun
  | @count c j hb hd ht =>
    have hl := h.1 c j
    refine h.setLane (.inr (.inl ⟨hb, Nat.pos_of_ne_zero ht, ?_, hd⟩))
    exact (Nat.sub_le _ 1).trans (hs.laneRange c j).2
  | finish v m hb hd ht =>
    refine h.setLane ?_
    exact .inr (.inr ⟨hb, rfl, rfl⟩)
  | laneFault pc addr hb hf' hu => exact absurd hf hf'
  | bypassDone =>
    refine ⟨h.1, fun j => ?_⟩
    have hj : ({ s with byp := s.byp.map BypSlot.finish } : State).bypSlot j = (s.bypSlot j).finish :=
      getD_map rfl s.byp j
    rw [hj, BypSlot.finish]
    split_ifs with hx
    · exact fun _ => (Bool.and_eq_true _ _ ▸ hx).1
    · exact h.2 j

/-- Writeback of a done slot keeps the invariant: the slot it frees was the only one of the entry it marks, and the ROB
slot it makes ready the only one of that entry's tag (R42, R150, R153). -/
theorem State.MidCycleOk.writeResult {s : State} (hs : s.Fit) (h : s.MidCycleOk) {l : SlotRef}
    (hd : (s.slotView l).done = true) (b : Bool) {t : State} (ht : t = s.writeResult l b) (htables : t.TablesOk)
    (hunits : t.UnitsOk) : t.MidCycleOk := by
  subst ht
  obtain ⟨-, hpools, hslots⟩ := h.tables
  obtain ⟨hserve, hone⟩ := (State.slotsOk_iff hs).1 hslots
  have hb := h.busy_of_done hd
  have hl := hserve l hb
  have hlt := State.entry_lt_of_busy hl.busy
  have hframe := s.writeResult_execFrame l b
  have hremove (q : RsRef) : ((s.writeResult l b).entry q).remove =
      if q = (s.slotView l).rs then true else (s.entry q).remove := by
    rw [State.entry_writeResult]
    simp only [hlt, and_true]
    split_ifs
    · rfl
    · exact (RsEntry.hear_marks _ _ _).2
  have hexec (q : RsRef) : ((s.writeResult l b).entry q).inExec = (s.entry q).inExec := by
    rw [State.entry_writeResult]
    split_ifs <;> exact (RsEntry.hear_marks _ _ _).1
  refine ⟨htables, hunits.1, hunits.2, fun m hm => ?_, fun q hq hr => ?_, fun q hq hr => ?_⟩
  · rw [State.slotView_writeResult] at hm ⊢
    split_ifs at hm ⊢ with hml
    rw [hremove, if_neg fun he => hml (hone m l hm hb he)]
    exact h.served m hm
  · rw [hexec]
    rw [hframe.busy] at hq
    rw [hremove] at hr
    split_ifs at hr with hql
    · exact hql ▸ hl.inExec
    · exact h.removed q hq hr
  · rw [hframe.busy] at hq
    rw [hremove] at hr
    split_ifs at hr with hql
    have hne : (s.entry q).tagD ≠ s.tagOf l := fun he => hql (((State.poolsOk_iff hs).1 hpools).2 q _ hq hl.busy he)
    rw [hframe.tagD, State.slot_writeResult_other _ _ _ hne]
    exact h.pending q hq hr

theorem ExecChange.midCycleOk {s t : State} (hs : s.Fit) (h : s.MidCycleOk) (hc : ExecChange s t)
    (hf : t.fault = .noFault) : t.MidCycleOk := by
  have htables := (ExecRun.tablesOk ⟨hs, h.tables⟩ hc.run).2
  have hunits := hc.unitsOk hs ⟨h.lanes, h.byp⟩ hf
  obtain ⟨l, b, hd, rfl⟩ | ⟨hremove, hready⟩ := hc.marks
  · exact h.writeResult hs hd b rfl htables hunits
  have hframe := hc.frame
  refine ⟨htables, hunits.1, hunits.2, fun l hl => ?_, fun q hq hr => ?_, fun q hq hr => ?_⟩
  · obtain hslot | ⟨l₀, ref, hother, hnew, href, hfree⟩ := hc.slot_cases hs
    · obtain ⟨hb, hrs⟩ := hslot l hl
      rw [hremove, hrs]
      exact h.served l hb
    · rw [hremove]
      by_cases hl₀ : l = l₀
      · rw [hl₀, hnew]
        by_contra hr
        have hx := h.removed ref (hframe.busy ref ▸ href.busy) (by simpa using hr)
        exact Bool.noConfusion (hfree.symm.trans hx)
      · rw [hother l hl₀] at hl ⊢
        exact h.served l hl
  · exact hc.inExec (h.removed q (hframe.busy q ▸ hq) (hremove q ▸ hr))
  · rw [hready, hframe.tagD]
    exact h.pending q (hframe.busy q ▸ hq) (hremove q ▸ hr)

/-- A run that raises no fault keeps the invariant. -/
theorem ExecRun.midCycleOk {s t : State} (hs : s.Fit) (h : s.MidCycleOk) (hr : ExecRun s t) (hf : t.fault = .noFault) :
    t.MidCycleOk := by
  refine (hr.keeps (P := fun u => u.Fit ∧ (u.fault = .noFault → u.MidCycleOk)) (fun u v hu hc => ?_)
    ⟨hs, fun _ => h⟩).2 hf
  refine ⟨hu.1.execChange hc, fun hv => hc.midCycleOk hu.1 (hu.2 ?_) hv⟩
  exact hc.frame.fault.elim (fun e => e ▸ hv) fun hn => absurd hv hn.1

/-! ## Issue -/

section allocated

variable {s : State} (hs : s.Fit) {i : Instr} {c : UnitClass} {k : Nat} {r : Record} (hr : s.robFull = false)
  (hk : s.freeEntry c.pool = some k)

theorem State.entry_allocated_other {q : RsRef} (hq : q ≠ ⟨c.pool, k⟩) :
    (s.allocated i c k r).entry q = s.entry q := by
  rw [State.entry_allocated, if_neg fun h => hq h.1]

include hk

theorem State.entry_allocated_new :
    (s.allocated i c k r).entry ⟨c.pool, k⟩ =
      { busy := true, instr := r, op1 := (s.allocRob r).source (source1? i), op2 := (s.allocRob r).source (source2? i),
        tagD := s.rob.tail, addr := 0, addrKnown := false, inExec := false, id := s.nextId, remove := false } := by
  rw [State.entry_allocated, if_pos ⟨rfl, (State.freeEntry_spec hk).1⟩]

theorem State.ne_of_busy {q : RsRef} (hq : (s.entry q).busy = true) : q ≠ ⟨c.pool, k⟩ := by
  rintro rfl
  exact Bool.noConfusion ((State.freeEntry_spec hk).2.1.symm.trans hq)

include hs hr

/-- The new entry is placed, and its tag is no busy entry's (R36, R38, R109, R110). -/
theorem State.allocated_poolsOk (hring : s.RingOk) (hpools : s.PoolsOk) (hi : r.instr? = some i)
    (hc : classOf? i = some c) : (s.allocated i c k r).PoolsOk := by
  obtain ⟨hplace, hone⟩ := (State.poolsOk_iff hs).1 hpools
  have hother (q : RsRef) (hq : q ≠ ⟨c.pool, k⟩) : (s.allocated i c k r).entry q = s.entry q :=
    State.entry_allocated_other hq
  have hnew := State.entry_allocated_new (i := i) (r := r) hk
  have htail (q : RsRef) (hq : (s.entry q).busy = true) : (s.entry q).tagD ≠ s.rob.tail := fun he =>
    State.tail_not_mem_liveTags hs hr hring (he ▸ (hplace q hq).live)
  refine (State.poolsOk_iff (hs.allocated hr)).2 ⟨fun q hq => ?_, fun q q' hq hq' he => ?_⟩
  · by_cases hqn : q = ⟨c.pool, k⟩
    · subst hqn
      refine ⟨?_, ?_, ?_⟩ <;> rw [hnew]
      · exact (State.allocated_mem_liveTags hs hr hring).2 (.inr rfl)
      · rw [State.allocated_slot_tail hs]
      · simp [Record.unitClass?_of_instr? hi, hc]
    · rw [hother q hqn] at hq
      have hp := hplace q hq
      refine ⟨?_, ?_, ?_⟩ <;> rw [hother q hqn]
      · exact (State.allocated_mem_liveTags hs hr hring).2 (.inl hp.live)
      · rw [State.allocated_slot_of_mem hs hr hring hp.live]
        exact hp.instr
      · exact hp.pool
  · by_cases hqn : q = ⟨c.pool, k⟩ <;> by_cases hqn' : q' = ⟨c.pool, k⟩
    · exact hqn.trans hqn'.symm
    · rw [hother q' hqn'] at hq' he
      rw [hqn, hnew] at he
      exact absurd he.symm (htail q' hq')
    · rw [hother q hqn] at hq he
      rw [hqn', hnew] at he
      exact absurd he (htail q hq)
    · rw [hother q hqn] at hq he
      rw [hother q' hqn'] at hq' he
      exact hone q q' hq hq' he

theorem State.MidCycleOk.allocated (h : s.MidCycleOk) (hi : r.instr? = some i) (hc : classOf? i = some c) :
    (s.allocated i c k r).MidCycleOk := by
  obtain ⟨hring, hpools, hslots⟩ := h.tables
  obtain ⟨hcfg, -, hlanes, hbyp⟩ := s.allocated_fields i c k r
  have hsame {q : RsRef} (hq : (s.entry q).busy = true) : (s.allocated i c k r).entry q = s.entry q :=
    State.entry_allocated_other (State.ne_of_busy hk hq)
  have hnew := State.entry_allocated_new (i := i) (r := r) hk
  have hview := State.slotView_congr hlanes hbyp
  have hserve := ((State.slotsOk_iff hs).1 hslots).1
  refine ⟨⟨State.allocated_ringOk hs hr hring, State.allocated_poolsOk hs hr hk hring hpools hi hc, ?_⟩, ?_, ?_,
    fun l hl => ?_, fun q hq hrm => ?_, fun q hq hrm => ?_⟩
  · refine State.slotsOk_of_subset hs (hs.allocated hr) hslots (fun l hl => ?_) fun l _ hl => ?_
    · rw [hview] at hl ⊢
      exact ⟨hl, rfl⟩
    · refine ⟨?_, ?_, ?_, hl.pool⟩ <;> rw [hsame hl.busy]
      · exact hl.busy
      · exact hl.inExec
      · exact hl.unit
  · simpa only [State.lane, hlanes, hcfg] using h.lanes
  · simpa only [State.bypSlot, hbyp] using h.byp
  · rw [hview] at hl ⊢
    rw [hsame (hserve l hl).busy]
    exact h.served l hl
  all_goals
    by_cases hqn : q = ⟨c.pool, k⟩
  · rw [hqn, hnew] at hrm
    cases hrm
  · rw [State.entry_allocated_other hqn] at hq hrm ⊢
    exact h.removed q hq hrm
  · rw [hqn, hnew, State.allocated_slot_tail hs]
  · rw [State.entry_allocated_other hqn] at hq hrm ⊢
    rw [State.allocated_slot_of_mem hs hr hring (((State.poolsOk_iff hs).1 hpools).1 q hq).live]
    exact h.pending q hq hrm

end allocated

/-- After X3 every busy bypass slot is done (R144). -/
abbrev State.BypassDone (s : State) : Prop := ∀ j, (s.bypSlot j).busy = true → (s.bypSlot j).done = true

theorem IssueOutcome.midCycleOk {s t : State} (hs : s.Fit) (h : s.MidCycleOk ∧ s.BypassDone) (hc : IssueOutcome s t) :
    t.MidCycleOk ∧ t.BypassDone := by
  cases hc with
  | stops => exact ⟨{ h.1 with }, h.2⟩
  | faults pc addr hf hu => exact ⟨{ h.1 with }, h.2⟩
  | allocates hi hc hr hk =>
    refine ⟨h.1.allocated hs hr hk hi hc, ?_⟩
    simpa only [State.BypassDone, State.bypSlot, (s.allocated_fields _ _ _ _).2.2.2] using h.2

theorem issuePhase_midCycleOk {s t : State} (hs : s.Fit) (h : s.MidCycleOk ∧ s.BypassDone)
    (hi : issuePhase s = .next t) : t.Fit ∧ t.MidCycleOk ∧ t.BypassDone := by
  refine issueLoop_keeps (P := fun u => u.Fit ∧ u.MidCycleOk ∧ u.BypassDone) (fun u v hu h => ?_) _ _ t ?_ hi
  · obtain ⟨τ, ho⟩ := issueOne_outcome h
    have hf := hu.1.withTurn τ
    exact ⟨hf.issueOutcome ho, ho.midCycleOk hf ⟨{ hu.2.1 with }, hu.2.2⟩⟩
  · exact ⟨hs.withTurn _, { h.1 with }, h.2⟩

/-! ## F -/

theorem RsEntry.finalize_busy (e : RsEntry) : e.finalize.busy = true ↔ e.busy = true ∧ e.remove = false := by
  unfold RsEntry.finalize
  split_ifs with h <;> simp [h]

/-- An entry that F does not remove stays as it is (R181). -/
theorem RsEntry.finalize_of_not_remove {e : RsEntry} (h : e.remove = false) : e.finalize = e := by
  simp [RsEntry.finalize, h]

theorem RsEntry.finalize_remove (e : RsEntry) : e.finalize.remove = false := by
  unfold RsEntry.finalize
  split_ifs with h
  · rfl
  · simpa using h

theorem State.entry_ended (s : State) (q : RsRef) : s.ended.entry q = (s.entry q).finalize :=
  State.entry_mapEntries (f := RsEntry.finalize) rfl s q

theorem State.MidCycleOk.ended {s : State} (hs : s.Fit) (h : s.MidCycleOk) (hb : s.BypassDone) :
    s.ended.InFlightOk := by
  have ht : s.ended.Fit := hs.finalize.sameArrays ⟨rfl, rfl, rfl, rfl, rfl, rfl, rfl, rfl, rfl⟩
  obtain ⟨hring, hpools, hslots⟩ := h.tables
  obtain ⟨hplace, hone⟩ := (State.poolsOk_iff hs).1 hpools
  have hsame {q : RsRef} (hq : (s.ended.entry q).busy = true) :
      (s.entry q).busy = true ∧ (s.entry q).remove = false ∧ s.ended.entry q = s.entry q := by
    rw [State.entry_ended] at hq ⊢
    obtain ⟨hq, hr⟩ := (RsEntry.finalize_busy _).1 hq
    exact ⟨hq, hr, RsEntry.finalize_of_not_remove hr⟩
  refine ⟨hring, (State.lanesLegal_iff _).2 ⟨h.lanes, fun j => ?_⟩, ?_, (State.entriesOk_iff ht).2
    ⟨(State.poolsOk_iff ht).2 ⟨fun q hq => ?_, fun q q' hq hq' he => ?_⟩, fun q => ?_, fun q hq => ?_⟩⟩
  · exact Bool.eq_iff_iff.2 ⟨hb j, h.byp j⟩
  · refine State.slotsOk_of_subset hs ht hslots (fun l hl => ⟨hl, rfl⟩) fun l hl hserve => ?_
    have he : s.ended.entry (s.slotView l).rs = s.entry (s.slotView l).rs :=
      (s.entry_ended _).trans (RsEntry.finalize_of_not_remove (h.served l hl))
    exact ⟨he ▸ hserve.busy, he ▸ hserve.inExec, he ▸ hserve.unit, hserve.pool⟩
  · obtain ⟨hqb, -, he⟩ := hsame hq
    have hp := hplace q hqb
    exact ⟨he ▸ hp.live, he ▸ hp.instr, he ▸ hp.pool⟩
  · obtain ⟨hqb, -, heq⟩ := hsame hq
    obtain ⟨hqb', -, heq'⟩ := hsame hq'
    rw [heq, heq'] at he
    exact hone q q' hqb hqb' he
  · rw [State.entry_ended]
    exact RsEntry.finalize_remove _
  · obtain ⟨hqb, hr, he⟩ := hsame hq
    rw [he]
    exact h.pending q hqb hr

end Sys2Proof.Machine
end

section
/-! PROOFS. The statements about the tables of the instructions in flight (10:R30, R36 to R43, 41:R132). -/

namespace Sys2Proof.Machine

theorem countPhase_bypassDone {s t : State} (h : countPhase s = .next t) (hf : t.fault = .noFault) : t.BypassDone := by
  obtain ⟨u, -, ⟨hn, rfl⟩ | ⟨-, h⟩⟩ := andThen_eq_next h
  · exact absurd hf hn
  have hbyp : t.byp = u.byp.map BypSlot.finish := by
    unfold finishCompletions at h
    dsimp only at h
    split_ifs at h <;> cases h <;> rfl
  intro j
  have hj : t.bypSlot j = (u.bypSlot j).finish := by
    rw [State.bypSlot, hbyp]
    exact getD_map rfl u.byp j
  rw [hj, BypSlot.finish]
  split_ifs with hx
  · exact fun _ => rfl
  · exact fun hb => by simpa [hb] using hx

theorem beforeIssue_bypassDone {s t : State} (h : beforeIssue s = .next t) (hf : t.fault = .noFault) :
    t.BypassDone := by
  obtain ⟨u, -, ⟨hn, rfl⟩ | ⟨-, h⟩⟩ := andThen_eq_next h
  · exact absurd hf hn
  · exact countPhase_bypassDone h hf

/-- The in-flight invariant through a whole step that raises no fault. -/
theorem step_inFlightOk {s t : State} (hs : s.Fit) (hi : s.InFlightOk) (hf : s.fault = .noFault)
    (h : step s = .next t) (htf : t.fault = .noFault) : t.InFlightOk := by
  obtain ⟨v, hv, ⟨hn, rfl⟩ | ⟨hvf, h⟩⟩ := step_phases hf h
  · exact absurd htf hn
  obtain ⟨u, hu, hrun⟩ := beforeIssue_run hv
  obtain ⟨hsu, hiu⟩ := commitPhase_inFlightOk ⟨hs.withTurn .start, hi⟩ hu
  have hvm := hrun.midCycleOk hsu (State.InFlightOk.midCycleOk hsu hiu) hvf
  obtain ⟨w, hw, h⟩ := fromIssue_cases h
  obtain ⟨hsw, hwm, hwb⟩ := issuePhase_midCycleOk (State.stepKeeps_fit.run hsu hrun)
    ⟨hvm, beforeIssue_bypassDone hv hvf⟩ hw
  obtain ⟨hn, rfl⟩ | ⟨-, rfl⟩ := h
  · exact absurd htf hn
  · exact hwm.ended hsw hwb

/-- Settles O49: C keeps the invariant, an unfaulted run of W, X1, X2 and X3 and the issue stage its mid-cycle form, and
F restores it; the tables alone are kept by every elementary change. -/
theorem inFlightStructuresAgree : Obligations.InFlightStructuresAgree := by
  unfold Obligations.InFlightStructuresAgree
  simp only [State.runnable_iff_fit]
  refine ⟨fun s t => step_inFlightOk, fun s t hs hi => commitPhase_inFlightOk ⟨hs.withTurn .start, hi⟩,
    fun s t hs hi phase hphase h => ExecRun.tablesOk ⟨hs, hi⟩ ?_⟩
  simp only [List.mem_cons, List.not_mem_nil, or_false] at hphase
  obtain rfl | rfl | rfl | rfl := hphase
  · exact writebackPhase_run h
  · exact addressPhase_run h
  · exact dispatchPhase_run h
  · exact countPhase_run h

/-! ## Bypass slots -/

/-- Where every bypass slot is busy, their entries fill the pool `LOAD_B`, each in execution (R42, R43). -/
theorem State.inExec_of_bypass_full {s : State} (hs : s.Fit) (h : s.SlotsOk)
    (hfull : ∀ j < s.byp.length, (s.bypSlot j).busy = true) {k : Nat} (hk : k < s.cfg.rsSize.loadB) :
    (s.entry ⟨.loadB, k⟩).inExec = true := by
  obtain ⟨hserve, hone⟩ := (State.slotsOk_iff hs).1 h
  have hbusy (j : Fin s.cfg.rsSize.loadB) : (s.slotView (.bypass j)).busy = true := hfull j (hs.bypCount.symm ▸ j.isLt)
  have href (j : Fin s.cfg.rsSize.loadB) : (s.bypSlot j).rs = ⟨.loadB, (s.bypSlot j).rs.idx⟩ := by
    rw [← show (s.bypSlot j).rs.pool = .loadB from (hserve _ (hbusy j)).pool]
  have hidx (j : Fin s.cfg.rsSize.loadB) : (s.bypSlot j).rs.idx < s.cfg.rsSize.loadB := by
    have hj := hs.bypRange j
    rw [href j] at hj
    exact of_decide_eq_true hj
  have hinj : Function.Injective fun j : Fin s.cfg.rsSize.loadB => (⟨_, hidx j⟩ : Fin s.cfg.rsSize.loadB) := by
    intro j j' he
    have hrs : (s.bypSlot j).rs = (s.bypSlot j').rs := by rw [href j, href j', Fin.mk.inj he]
    have hl := hone _ _ (hbusy j) (hbusy j') hrs
    exact Fin.ext (SlotRef.bypass.inj hl)
  obtain ⟨j, hj⟩ := Finite.surjective_of_injective hinj ⟨k, hk⟩
  have hrs : (s.bypSlot j).rs = ⟨.loadB, k⟩ := by rw [href j, Fin.mk.inj hj]
  exact hrs ▸ (hserve _ (hbusy j)).inExec

theorem State.exists_freeByp {s : State} (hs : s.Fit) (h : s.SlotsOk) {k : Nat}
    (he : (s.entry ⟨.loadB, k⟩).eligible = true) : ∃ j, s.freeByp = some j := by
  obtain ⟨hb, hx⟩ : (s.entry ⟨.loadB, k⟩).busy = true ∧ (s.entry ⟨.loadB, k⟩).inExec = false := by
    simp only [RsEntry.eligible, Bool.and_eq_true, Bool.not_eq_true'] at he
    exact he.1.1
  cases hj : s.freeByp with
  | some j => exact ⟨j, rfl⟩
  | none =>
    have hk : k < s.cfg.rsSize.loadB := (State.entry_lt_of_busy hb).trans_eq (hs.poolSize .loadB)
    have hfull (j : Nat) (hj' : j < s.byp.length) : (s.bypSlot j).busy = true := by
      simpa [State.bypSlot, hj'] using firstIdx_none hj _ (List.getElem_mem hj')
    exact absurd (State.inExec_of_bypass_full hs h hfull hk) (hx ▸ nofun)

/-- The dispatch turn of an eligible store takes the lowest free bypass slot (R132). -/
theorem exec_store_at_dispatch {s : State} {ref : RsRef} {i : Instr} {j : Nat} (hi : isStore i = true)
    (hp : s.turn.phase = .dispatch ref) (he : (s.entry ref).eligible = true) (hj : s.freeByp = some j) :
    exec i s = .next { s.executing ref with byp := s.byp.set j ⟨true, ref, (s.entry ref).op2.value, false⟩ } := by
  have hc : classOf? i = some .memory ∧ isLoad i = false := by
    cases i <;> simp [isStore, classOf?, isLoad] at hi ⊢
  rw [exec_at_dispatch hp, hc.1]
  simp only [hc.2, hi, if_true, Bool.false_eq_true, if_false, State.dispatchStore, he, State.dispatchBypass_some hj]
  rfl

/-- Settles O58: every elementary change keeps the slots' invariant, and busy bypass slots serve different entries of a
pool of their number, none of them the eligible one. -/
theorem bypassSlotAlwaysFree : Obligations.BypassSlotAlwaysFree := by
  unfold Obligations.BypassSlotAlwaysFree
  simp only [State.runnable_iff_fit]
  refine ⟨fun s u hs hi h => ?_, fun s t c ref hs hslots href h => ?_, fun s k hs hslots he => ?_⟩
  · rw [andThen_assoc] at h
    obtain ⟨v, hv, h⟩ := andThen_eq_next h
    obtain ⟨hsv, hring, -, hslots, hpools, -⟩ := commitPhase_inFlightOk ⟨hs.withTurn .start, hi⟩ hv
    obtain ⟨-, rfl⟩ | ⟨-, h⟩ := h
    · exact ⟨hsv, hslots⟩
    · have hrun : ExecRun v u := andThen_execRun (fun _ => writebackPhase_run) (fun _ _ => addressPhase_run) h
      obtain ⟨hu, -, -, hslots⟩ := ExecRun.tablesOk ⟨hsv, hring, hpools, hslots⟩ hrun
      exact ⟨hu, hslots⟩
  · obtain ⟨hp, hi, hc⟩ := State.mem_entriesOldestFirst href
    exact (dispatchEntry_run hp hi hc h).keeps (P := fun u => u.Fit ∧ u.SlotsOk)
      (fun _ _ hu hc => ⟨hu.1.execChange hc, hc.slotsOk hu.1 hu.2⟩) ⟨hs, hslots⟩
  · obtain ⟨j, hj⟩ := State.exists_freeByp hs hslots he
    obtain ⟨hlt, hfree, hmin⟩ := State.freeByp_spec hj
    exact ⟨j, hlt, hfree, hmin, fun i hi hp => exec_store_at_dispatch hi hp he hj⟩

end Sys2Proof.Machine
end

section
/-! PROOFS. The launched block (10:R55, 70:R330): every accessor reads its reset value, and nothing is in flight. -/

namespace Sys2Proof.Machine

theorem getD_replicate {α : Type} (n j : Nat) (d : α) : (List.replicate n d)[j]?.getD d = d := by
  rw [List.getElem?_replicate]
  split_ifs <;> rfl

section launch

variable (cfg : Config) (prog : List (BitVec 96)) (g f : Reg → Word) (m : Memory)

@[simp] theorem State.launch_gpr (i : Reg) : (State.launch cfg prog g f m).reg (.gpr i) = ⟨g i, false, 0⟩ := by
  simp [State.launch, State.reg, RegBank.launch]

@[simp] theorem State.launch_fpr (i : Reg) : (State.launch cfg prog g f m).reg (.fpr i) = ⟨f i, false, 0⟩ := by
  simp [State.launch, State.reg, RegBank.launch]

theorem State.launch_reg_idle (r : RegName) :
    ((State.launch cfg prog g f m).reg r).busy = false ∧ ((State.launch cfg prog g f m).reg r).tag = 0 := by
  cases r <;> simp

@[simp] theorem State.launch_slot (u : Nat) : (State.launch cfg prog g f m).slot u = RobSlot.empty :=
  getD_replicate ..

@[simp] theorem State.launch_rs (p : Pool) :
    (State.launch cfg prog g f m).rs.get p = List.replicate (cfg.rsSize.get p) RsEntry.empty := PerPool.get_map ..

@[simp] theorem State.launch_lanes (c : UnitClass) :
    (State.launch cfg prog g f m).lanes.get c = List.replicate (cfg.lanes.get c) Lane.empty := PerClass.get_map ..

@[simp] theorem State.launch_entry (q : RsRef) : (State.launch cfg prog g f m).entry q = RsEntry.empty := by
  rw [State.entry, State.launch_rs, getD_replicate]

@[simp] theorem State.launch_lane (c : UnitClass) (j : Nat) : (State.launch cfg prog g f m).lane c j = Lane.empty := by
  rw [State.lane, State.launch_lanes, getD_replicate]

@[simp] theorem State.launch_bypSlot (j : Nat) : (State.launch cfg prog g f m).bypSlot j = BypSlot.empty :=
  getD_replicate ..

@[simp] theorem State.launch_liveTags : (State.launch cfg prog g f m).liveTags = [] := rfl

theorem State.launch_slotView (l : SlotRef) : ((State.launch cfg prog g f m).slotView l).busy = false := by
  cases l <;> simp [State.slotView, Lane.empty, BypSlot.empty]

variable {cfg prog m}

theorem State.launch_fit (hw : cfg.wf = true) (hp : prog ≠ []) (hm : m.wf = true) (hr : ∀ c ∈ m, c.1 < cfg.memSize) :
    (State.launch cfg prog g f m).Fit where
  wf := hw
  loaded := hp
  regTag r := (State.launch_reg_idle cfg prog g f m r).2 ▸ Config.robSize_pos hw
  slotCount := List.length_replicate
  head := Config.robSize_pos hw
  tail := Config.robSize_pos hw
  count := Nat.zero_le _
  stctr u := by rw [State.launch_slot]; exact Nat.zero_le _
  poolSize p := by rw [State.launch_rs, List.length_replicate]; rfl
  entryTags q := by rw [State.launch_entry]; exact RsEntry.empty_inRange (Config.robSize_pos hw)
  laneCount c := by rw [State.launch_lanes, List.length_replicate]; rfl
  laneRange c j := by
    rw [State.launch_lane]
    exact ⟨decide_eq_true (Config.rsSize_pos hw .intRs), Nat.zero_le _⟩
  bypCount := List.length_replicate
  bypRange j := by
    rw [State.launch_bypSlot]
    exact decide_eq_true (Config.rsSize_pos hw .intRs)
  memWf := hm
  memRange := hr

end launch

/-- Settles O44, field by field. -/
theorem launchValues : Obligations.LaunchValues := by
  unfold Obligations.LaunchValues
  rintro cfg prog g f m s rfl
  refine ⟨fun i => ⟨by simp, by simp⟩, rfl, rfl, rfl, rfl, List.length_replicate, fun x hx => ?_,
    fun p => ⟨by simp, ?_⟩, fun c => ⟨by simp, ?_⟩, List.length_replicate, fun b hb => ?_,
    rfl, rfl, rfl, rfl, rfl, rfl, rfl, rfl⟩
  · obtain rfl := List.eq_of_mem_replicate hx
    simp [RobSlot.empty]
  · intro e he
    rw [State.launch_rs] at he
    obtain rfl := List.eq_of_mem_replicate he
    simp [RsEntry.empty]
  · intro l hl
    rw [State.launch_lanes] at hl
    obtain rfl := List.eq_of_mem_replicate hl
    simp [Lane.empty]
  · obtain rfl := List.eq_of_mem_replicate hb
    simp [BypSlot.empty]

/-- Settles O45: no register, entry, lane or slot of a launched block is busy and no tag is live, which is all that the
invariants speak of. -/
theorem launchMeetsInvariants : Obligations.LaunchMeetsInvariants := by
  unfold Obligations.LaunchMeetsInvariants
  rintro cfg prog g f m s hw hp hm hr rfl
  have hs := State.launch_fit g f hw hp hm hr
  have hring : (State.launch cfg prog g f m).RingOk :=
    (State.ringOk_iff hs).2 ⟨by simp [State.launch], by simp [RobSlot.empty]⟩
  have hreg := State.launch_reg_idle cfg prog g f m
  have hlane (c : UnitClass) : ∀ l ∈ (State.launch cfg prog g f m).lanes.get c, l = Lane.empty := fun l hl =>
    List.eq_of_mem_replicate (State.launch_lanes cfg prog g f m c ▸ hl)
  have hview := State.launch_slotView cfg prog g f m
  refine ⟨State.runnable_iff_fit.2 hs, ⟨hring, ?_⟩, ⟨hring, ?_, ?_, ?_⟩, ?_, ⟨?_, ?_⟩, rfl, ?_, ?_, ?_, rfl⟩
  · exact fun r _ hb => absurd ((hreg r).1.symm.trans hb) nofun
  · exact (State.lanesLegal_iff _).2 (by simp [Lane.Legal, Lane.empty, BypSlot.empty])
  · exact (State.slotsOk_iff hs).2 (by simp [hview])
  · exact (State.entriesOk_iff hs).2 ⟨(State.poolsOk_iff hs).2 (by simp [RsEntry.empty]), by simp [RsEntry.empty]⟩
  · simp [State.WaitsOk, RsEntry.empty]
  · exact fun l hl hb => absurd (hlane .memory l hl ▸ hb) nofun
  · exact List.pairwise_of_forall_mem_list fun l hl _ _ hb => absurd (hlane .memory l hl ▸ hb) nofun
  · intro p _ e he
    obtain rfl := List.eq_of_mem_replicate (State.launch_rs cfg prog g f m p ▸ he)
    exact ⟨rfl, rfl⟩
  · intro c _ l hl
    rw [hlane c l hl]
    exact ⟨rfl, rfl⟩
  · intro b hb
    obtain rfl := List.eq_of_mem_replicate hb
    exact ⟨rfl, rfl⟩

end Sys2Proof.Machine
end

section
/-! PROOFS. A word in data memory (20_memory.md R60 to R68): reading back a word written, and the faults of a data
access for loads and stores alike. -/

namespace Sys2Proof.Machine

/-! ## Words and their bytes (R62) -/

/-- The byte at offset `k` after a word write (R62). -/
theorem Memory.read_writeWord_byte {m : Memory} (hm : m.wf = true) (a : Nat) (v : Word) {k : Nat} (hk : k < 4) :
    (m.writeWord a v).read (a + k) = byteOf v k := by
  rw [Memory.read_writeWord hm]
  obtain rfl | rfl | rfl | rfl : k = 0 ∨ k = 1 ∨ k = 2 ∨ k = 3 := by omega
  all_goals simp [byteOf]

theorem Memory.read_writeWord_outside {m : Memory} (hm : m.wf = true) {a b : Nat} (v : Word)
    (hb : b < a ∨ a + 4 ≤ b) : (m.writeWord a v).read b = m.read b := by
  rw [Memory.read_writeWord hm, if_neg (by omega), if_neg (by omega), if_neg (by omega), if_neg (by omega)]

/-- A word is its four bytes in little-endian order (R62). -/
theorem bytes_append (v : Word) : byteOf v 3 ++ byteOf v 2 ++ byteOf v 1 ++ byteOf v 0 = v := by
  simp only [byteOf, Nat.mul_zero, Nat.reduceMul]
  rw [BitVec.extractLsb'_append_extractLsb'_eq_extractLsb' (by rfl),
    BitVec.extractLsb'_append_extractLsb'_eq_extractLsb' (by rfl),
    BitVec.extractLsb'_append_extractLsb'_eq_extractLsb' (by rfl)]
  exact BitVec.extractLsb'_eq_self

/-- A word written is read back (R62, R66). -/
theorem Memory.readWord_writeWord {m : Memory} (hm : m.wf = true) (a : Nat) (v : Word) :
    (m.writeWord a v).readWord a = v := by
  have h0 := Memory.read_writeWord_byte hm a v (k := 0) (by omega)
  rw [Nat.add_zero] at h0
  rw [Memory.readWord, Memory.read_writeWord_byte hm a v (k := 3) (by omega),
    Memory.read_writeWord_byte hm a v (k := 2) (by omega), Memory.read_writeWord_byte hm a v (k := 1) (by omega), h0,
    bytes_append]

theorem State.memRead_of_access {s : State} {a : Word} (h : accessFault s.cfg a = none) :
    s.memRead a = .ok (s.mem.readWord a.toNat) := by
  simp [State.memRead, h]

theorem State.memWrite_of_access {s : State} {a : Word} (h : accessFault s.cfg a = none) (v : Word) :
    s.memWrite a v = .ok { s with mem := s.mem.writeWord a.toNat v } := by
  simp [State.memWrite, h]

/-- Settles O56: the access is good, so the write writes the word's four bytes, and reads go through the canonical
form. -/
theorem memoryKeepsWords : Obligations.MemoryKeepsWords := by
  unfold Obligations.MemoryKeepsWords
  intro s a v hm ha hr
  have hacc : accessFault s.cfg a = none := accessFault_eq_none.2 ⟨ha, hr⟩
  refine ⟨State.memRead_of_access hacc, _, State.memWrite_of_access hacc v, ?_, Memory.wf_writeWord hm _ v,
    fun k => Memory.read_writeWord_byte hm _ v, fun b => Memory.read_writeWord_outside hm v, ?_⟩
  · rw [State.memRead_of_access (by exact hacc)]
    exact congrArg _ (Memory.readWord_writeWord hm _ v)
  · intro p hp
    cases p <;> simp [Part.same] at hp ⊢

/-! ## Faults of a data access (R63, R64) -/

/-- The fault of a data access, misalignment before the range (R63, R64, R68). -/
theorem accessFault_eq_some {cfg : Config} {a : Word} {f : FaultCode}
    (h : (a.toNat % 4 ≠ 0 ∧ f = .memMisaligned) ∨
      (a.toNat % 4 = 0 ∧ cfg.memSize < a.toNat + 4 ∧ f = .memOutOfRange)) : accessFault cfg a = some f := by
  obtain ⟨ha, rfl⟩ | ⟨ha, hr, rfl⟩ := h
  · exact if_pos ha
  · simp [accessFault, ha, hr]

theorem computes_load {i : Instr} (hi : isLoad i = true) (c : UnitClass) (j : Nat) (e : RsEntry) (s : State) :
    computes i c j e s = s.finishLoad c j e := by
  simp [computes, hi]

/-- A load whose countdown ends at a bad address faults in its lane (R143). -/
theorem exec_load_faults {s : State} {i : Instr} {c : UnitClass} {j : Nat} {f : FaultCode} (h : s.Finishing c j)
    (hi : isLoad i = true) (hf : accessFault s.cfg (s.served c j).addr = some f) :
    exec i s = .next (s.laneFaults c j f (s.served c j).instr.pc (s.served c j).addr) := by
  rw [exec_at_complete h.1, State.countDown_finishing h, computes_load hi, State.finishLoad, State.memRead,
    State.setLane_cfg, hf]
  rfl

/-- The head's slot after a store's commit cycle: stamped, and counted down (R160, R164). -/
theorem State.headSlot_countedDown {s : State} (h : s.rob.head < s.rob.slots.length) :
    s.stampCommit.storeCountdown.headSlot = { s.stampedHead with stctr := some (s.storeCyclesLeft - 1) } := by
  have hx : s.stampCommit.storeCountdown.headSlot = { s.stampCommit.headSlot with
      stctr := some (s.stampCommit.headSlot.stctr.getD s.stampCommit.cfg.lat.memory - 1) } := by
    refine (State.slot_setSlot s.stampCommit _ _ _).trans (if_pos ⟨rfl, ?_⟩)
    rw [State.stampCommit_eq h, State.setSlot_slots, List.length_set]
    exact h
  rw [hx, State.headSlot_stampCommit h, s.stampCommit_sameSetup.1]
  rfl

@[simp] theorem State.headSlot_raise (s : State) (f : FaultCode) (pc addr : Word) :
    (s.raise f pc addr).headSlot = s.headSlot := rfl

/-- The first commit cycle of a store blocks the loads (R164). -/
theorem State.memBlock_countedDown {s : State} (h : s.rob.head < s.rob.slots.length) :
    s.stampCommit.storeCountdown.memBlock = (s.memBlock || s.headSlot.stctr.isNone) := by
  rw [State.storeCountdown, State.headSlot_stampCommit h, State.stampCommit_eq h]
  rfl

theorem State.slot_countedDown {s : State} (h : s.rob.head < s.rob.slots.length) {u : Nat} (hu : u ≠ s.rob.head) :
    s.stampCommit.storeCountdown.slot u = s.slot u := by
  rw [State.stampCommit_eq h]
  refine (State.slot_setSlot _ _ _ _).trans ((if_neg fun hx => hu hx.1.symm).trans ?_)
  rw [State.slot_setSlot, if_neg fun hx => hu hx.1.symm]

/-- A store's last commit cycle at a bad address (R164). -/
theorem exec_store_faults {s : State} {i : Instr} {f : FaultCode} (h : s.Committing) (hi : isStore i = true)
    (hl : s.storeCyclesLeft = 1) (hf : accessFault s.cfg s.headSlot.addr = some f) :
    exec i s = .next (s.stampCommit.storeCountdown.raise f s.headSlot.instr.pc s.headSlot.addr) := by
  obtain ⟨hp, hc, hr, hh⟩ := h
  have hhead := State.headSlot_countedDown hh
  have hcfg : s.stampCommit.storeCountdown.cfg = s.cfg := s.stampCommit_sameSetup.1
  have hne : i ≠ .eop := by rintro rfl; cases hi
  have hready : s.headReady = true := by simp [State.headReady, hc, hr]
  rw [exec_at_commit hp, if_neg hne, if_pos hi, State.commitStore_ready hready, hhead, hl]
  obtain ⟨g, hg, e⟩ | ⟨hg, -⟩ := s.stampCommit.storeCountdown.storeWrite_cases
  all_goals rw [hhead, hcfg] at hg; cases hf.symm.trans hg
  rw [e, hhead]
  rfl

/-- Settles O23: a bad address is the one outcome of the access in which nothing is written; the load raises it from its
lane, the store at the head after its last countdown. -/
theorem dataAccessFaults : Obligations.DataAccessFaults := by
  unfold Obligations.DataAccessFaults
  intro s i a f hbad
  have hf := accessFault_eq_some hbad
  refine ⟨fun c j h hi ha => ?_, fun h hi hl ha => ?_⟩
  · subst ha
    exact exec_load_faults h hi hf
  · subst ha
    have hh := h.2.2.2
    have hhead := State.headSlot_countedDown hh
    have hring := s.stampCommit_sameRing.trans s.stampCommit.storeCountdown_sameRing
    refine ⟨_, exec_store_faults h hi hl hf, rfl, rfl, rfl, hring.head, hring.count, hring.tail, ?_,
      fun u hu => State.slot_countedDown hh hu, fun hb => ?_, fun p hp => ?_⟩
    · rw [State.headSlot_raise, hhead]
    · rw [State.raise_memBlock, State.memBlock_countedDown hh]
      obtain hb | hb := hb <;> simp [hb]
    · rw [State.stampCommit_eq hh]
      cases p <;> simp [Part.same, State.storeCountdown] at hp ⊢

end Sys2Proof.Machine
end

section
/-! PROOFS. The sequential machine (20_memory.md R71) by kinds of instruction, and the path it takes along the
instructions in flight: each executed alone and followed by the next in memory, as the block fetches them
(43_pipeline_commit_squash.md R163: branches are predicted not taken). -/

namespace Sys2Proof.Machine

/-! ## One instruction (R71) -/

/-- The word a source slot names: 0 for an invalid slot (R85). -/
def Arch.src (a : Arch) (x : Option RegName) : Word := (x.map a.reg).getD 0

/-- The address of a memory instruction (R122). -/
def Arch.address (a : Arch) (i : Instr) : Word := a.src (source1? i) + immOf i

/-- The next instruction in memory, with `v` written to the register `d`, if there is one. -/
def Arch.write (a : Arch) (d : Option RegName) (v : Word) : Arch :=
  { a with pc := a.pc + 4, reg := fun r => if d = some r then v else a.reg r }

theorem Arch.write_none (a : Arch) (v : Word) : a.write none v = { a with pc := a.pc + 4 } := by
  simp [Arch.write]

theorem accessFault_eq_none_iff_not {cfg : Config} {a : Word} :
    accessFault cfg a = none ↔ ¬(a.toNat % 4 ≠ 0 ∨ cfg.memSize < a.toNat + 4) := by
  rw [accessFault_eq_none]
  omega

theorem isStore_ne_eop {i : Instr} (h : isStore i = true) : i ≠ .eop := by
  rintro rfl
  cases h

theorem isLoad_ne_eop {i : Instr} (h : isLoad i = true) : i ≠ .eop := by
  rintro rfl
  cases h

theorem isStore_of_isLoad {i : Instr} (h : isLoad i = true) : isStore i = false := by
  cases i <;> simp [isLoad] at h <;> rfl

theorem isBranch_of_isLoad {i : Instr} (h : isLoad i = true) : isBranch i = false := by
  cases i <;> simp [isLoad] at h <;> rfl

theorem isBranch_kind {i : Instr} (h : isBranch i = true) : i ≠ .eop ∧ isLoad i = false ∧ isStore i = false := by
  cases i <;> simp [isBranch] at h <;> simp [isLoad, isStore]

theorem archExec_store {cfg : Config} {i : Instr} (hi : isStore i = true) (a : Arch) :
    archExec cfg i a = if accessFault cfg (a.address i) = none then
      some { a with pc := a.pc + 4, mem := a.mem.writeWord (a.address i).toNat (a.src (source2? i)) } else none := by
  simp only [accessFault_eq_none_iff_not, ite_not]
  simp only [archExec, isStore_ne_eop hi, hi, or_true, if_true, if_false]
  rfl

theorem archExec_load {cfg : Config} {i : Instr} (hi : isLoad i = true) (a : Arch) :
    archExec cfg i a = if accessFault cfg (a.address i) = none then
      some (a.write (dest? i) (a.mem.readWord (a.address i).toNat)) else none := by
  simp only [accessFault_eq_none_iff_not, ite_not]
  simp only [archExec, isLoad_ne_eop hi, hi, isStore_of_isLoad hi, true_or, if_true, if_false, Bool.false_eq_true]
  rfl

theorem archExec_branch {cfg : Config} {i : Instr} (hi : isBranch i = true) (a : Arch) :
    archExec cfg i a =
      some { a with pc := if branchTaken i (a.src (source1? i)) then a.pc + 4 + immOf i else a.pc + 4 } := by
  obtain ⟨he, hl, hs⟩ := isBranch_kind hi
  simp only [archExec, he, hl, hs, hi, Bool.false_eq_true, or_self, if_true, if_false]
  rfl

theorem archExec_alu {cfg : Config} {i : Instr} (he : i ≠ .eop) (hl : isLoad i = false) (hs : isStore i = false)
    (hb : isBranch i = false) (a : Arch) :
    archExec cfg i a = (aluWord cfg i (a.src (source1? i)) (a.src (source2? i))).map (a.write (dest? i)) := by
  simp only [archExec, he, hl, hs, hb, Bool.false_eq_true, or_self, if_false]
  rfl

/-- What an instruction executed alone can do: a store writes its word, a branch chooses the next address, and any other
instruction writes its destination. -/
theorem archExec_cases {cfg : Config} {i : Instr} {a b : Arch} (h : archExec cfg i a = some b) :
    (isStore i = true ∧ accessFault cfg (a.address i) = none ∧
      b = { a with pc := a.pc + 4, mem := a.mem.writeWord (a.address i).toNat (a.src (source2? i)) }) ∨
    (isBranch i = true ∧ ∃ pc, b = { a with pc := pc }) ∨
    (isStore i = false ∧ isBranch i = false ∧ ∃ v, b = a.write (dest? i) v) := by
  cases hs : isStore i
  · cases hb : isBranch i
    · refine .inr (.inr ⟨rfl, rfl, ?_⟩)
      cases hl : isLoad i
      · have he : i ≠ .eop := by
          rintro rfl
          cases h
        rw [archExec_alu he hl hs hb] at h
        obtain ⟨v, -, rfl⟩ := Option.map_eq_some_iff.1 h
        exact ⟨v, rfl⟩
      · rw [archExec_load hl] at h
        split_ifs at h
        cases h
        exact ⟨_, rfl⟩
    · rw [archExec_branch hb] at h
      cases h
      exact .inr (.inl ⟨rfl, _, rfl⟩)
  · rw [archExec_store hs] at h
    split_ifs at h with hacc
    cases h
    exact .inl ⟨rfl, hacc, rfl⟩

/-! ## Quotients (R211) -/

/-- Division that rounds towards zero: the quotient of the magnitudes, with the sign of the operands. -/
theorem tdiv_eq_natAbs (a b : Int) :
    a.tdiv b = if (decide (a < 0)) != (decide (b < 0)) then -((a.natAbs / b.natAbs : Nat) : Int)
      else ((a.natAbs / b.natAbs : Nat) : Int) := by
  rcases a with m | m <;> rcases b with n | n
  · have h (k : Nat) : decide ((Int.ofNat k) < 0) = false := by simp
    rw [h, h]; rfl
  all_goals simp [Int.tdiv]

theorem sdiv_eq_ofInt (a b : Word) : a.sdiv b = BitVec.ofInt 32 (a.toInt.tdiv b.toInt) := by
  refine BitVec.eq_of_toInt_eq ?_
  rw [BitVec.toInt_sdiv, BitVec.toInt_ofInt]

/-- A quotient is the word of the sequential machine (R211). -/
theorem aluWord_div {cfg : Config} {rd rs rt : Reg} {a b v : Word} (h : divide cfg.divSigned a b = .ok v) :
    aluWord cfg (.div rd rs rt) a b = some v := by
  have hb : b ≠ 0 := by
    rintro rfl
    simp [divide] at h
  rw [divide, if_neg hb] at h
  unfold aluWord
  cases hs : cfg.divSigned
  · simp only [hs, Bool.false_eq_true, if_false] at h ⊢
    cases h
    rw [if_neg (by simpa using hb)]
    exact congrArg some (BitVec.udiv_def ..)
  · simp only [hs, if_true] at h ⊢
    split at h
    next => cases h
    next ho =>
      cases h
      have hn : ¬(b = 0 ∨ (True ∧ a = 0x80000000 ∧ b = 0xFFFFFFFF)) := by
        rintro (hb' | ⟨-, rfl, rfl⟩)
        · exact hb hb'
        · exact ho (by decide)
      rw [if_neg hn, sdiv_eq_ofInt, tdiv_eq_natAbs]
      rfl

/-! ## The result of an instruction -/

/-- `v`, and for a branch also `taken`, are the result of instruction `i` executed at `a`: a store's data, a branch's
target and outcome, the word any other instruction writes. -/
def Yields (cfg : Config) (i : Instr) (a : Arch) (v : Word) (taken : Bool) : Prop :=
  if isStore i then v = a.src (source2? i)
  else if isBranch i then v = a.pc + 4 + immOf i ∧ taken = branchTaken i (a.src (source1? i))
  else archExec cfg i a = some (a.write (dest? i) v)

theorem yields_store {cfg : Config} {i : Instr} (hi : isStore i = true) {a : Arch} {v : Word} {m : Bool} :
    Yields cfg i a v m ↔ v = a.src (source2? i) := by simp [Yields, hi]

theorem yields_branch {cfg : Config} {i : Instr} (hi : isBranch i = true) {a : Arch} {v : Word} {m : Bool} :
    Yields cfg i a v m ↔ v = a.pc + 4 + immOf i ∧ m = branchTaken i (a.src (source1? i)) := by
  simp [Yields, hi, (isBranch_kind hi).2.2]

theorem yields_other {cfg : Config} {i : Instr} (hs : isStore i = false) (hb : isBranch i = false) {a : Arch} {v : Word}
    {m : Bool} : Yields cfg i a v m ↔ archExec cfg i a = some (a.write (dest? i) v) := by simp [Yields, hs, hb]

/-- Only a branch has an outcome. -/
theorem Yields.outcome {cfg : Config} {i : Instr} {a : Arch} {v : Word} {m m' : Bool} (h : Yields cfg i a v m)
    (hm : isBranch i = true → m' = m) : Yields cfg i a v m' := by
  cases hb : isBranch i
  · cases hs : isStore i
    · exact (yields_other hs hb).2 ((yields_other hs hb).1 h)
    · exact (yields_store hs).2 ((yields_store hs).1 h)
  · rwa [hm hb]

/-! ## One instruction of the path -/

/-- Instruction `i` executed alone at `a`, then the next in memory. -/
def pathStep (cfg : Config) (i : Instr) (a : Arch) : Option Arch :=
  (archExec cfg i a).map fun b => { b with pc := a.pc + 4 }

/-- A step of the path executes the next instruction in memory: a store writes its word; any other writes at most its
destination. -/
theorem pathStep_cases {cfg : Config} {i : Instr} {a b : Arch} (h : pathStep cfg i a = some b) :
    (isStore i = true ∧ accessFault cfg (a.address i) = none ∧
      b = { a with pc := a.pc + 4, mem := a.mem.writeWord (a.address i).toNat (a.src (source2? i)) }) ∨
    (isStore i = false ∧ ∃ v, b = a.write (dest? i) v) := by
  obtain ⟨c, hc, rfl⟩ := Option.map_eq_some_iff.1 h
  obtain ⟨hs, hacc, rfl⟩ | ⟨hb, pc, rfl⟩ | ⟨hs, -, v, rfl⟩ := archExec_cases hc
  · exact .inl ⟨hs, hacc, rfl⟩
  · exact .inr ⟨(isBranch_kind hb).2.2, 0, by rw [dest?_of_isBranch hb, Arch.write_none]⟩
  · exact .inr ⟨hs, v, rfl⟩

theorem pathStep_pc {cfg : Config} {i : Instr} {a b : Arch} (h : pathStep cfg i a = some b) : b.pc = a.pc + 4 := by
  obtain ⟨-, -, rfl⟩ | ⟨-, v, rfl⟩ := pathStep_cases h <;> rfl

theorem pathStep_reg {cfg : Config} {i : Instr} {a b : Arch} (h : pathStep cfg i a = some b) {r : RegName}
    (hr : dest? i ≠ some r) : b.reg r = a.reg r := by
  obtain ⟨-, -, rfl⟩ | ⟨-, v, rfl⟩ := pathStep_cases h
  · rfl
  · exact if_neg hr

/-- The destination gets the result. -/
theorem pathStep_dest {cfg : Config} {i : Instr} {a b : Arch} (h : pathStep cfg i a = some b) {r : RegName}
    (hr : dest? i = some r) {v : Word} {m : Bool} (hv : Yields cfg i a v m) : b.reg r = v := by
  have hs : isStore i = false := by
    by_contra hs
    cases (dest?_of_isStore (by simpa using hs)).symm.trans hr
  have hb : isBranch i = false := by
    by_contra hb
    cases (dest?_of_isBranch (by simpa using hb)).symm.trans hr
  rw [pathStep, (yields_other hs hb).1 hv] at h
  cases h
  exact if_pos hr

theorem pathStep_wf {cfg : Config} {i : Instr} {a b : Arch} (h : pathStep cfg i a = some b) (ha : a.mem.wf = true) :
    b.mem.wf = true := by
  obtain ⟨-, -, rfl⟩ | ⟨-, v, rfl⟩ := pathStep_cases h
  · exact Memory.wf_writeWord ha _ _
  · exact ha

/-- Words of other addresses keep their value: both addresses are multiples of 4 (R63). -/
theorem pathStep_word {cfg : Config} {i : Instr} {a b : Arch} (h : pathStep cfg i a = some b) (hw : a.mem.wf = true)
    {x : Word} (hx : x.toNat % 4 = 0) (hne : isStore i = true → a.address i ≠ x) :
    b.mem.readWord x.toNat = a.mem.readWord x.toNat := by
  obtain ⟨hs, hacc, rfl⟩ | ⟨-, v, rfl⟩ := pathStep_cases h
  · have hal := (accessFault_eq_none.1 hacc).1
    have hne : (a.address i).toNat ≠ x.toNat := fun he => hne hs (BitVec.eq_of_toNat_eq he)
    simp only [Memory.readWord]
    rw [Memory.read_writeWord_outside hw _ (by omega), Memory.read_writeWord_outside hw _ (by omega),
      Memory.read_writeWord_outside hw _ (by omega), Memory.read_writeWord_outside hw _ (by omega)]
  · rfl

/-! ## The path -/

/-- The state `a` after the first `n` instructions of `code`, each followed by the next: none where one faults. -/
def pathFrom (cfg : Config) (code : Nat → Option Instr) (a : Arch) : Nat → Option Arch
  | 0 => some a
  | n + 1 => (pathFrom cfg code a n).bind fun b => (code n).bind fun i => pathStep cfg i b

section path

variable {cfg : Config} {code : Nat → Option Instr} {a : Arch}

theorem pathFrom_succ {n : Nat} {c : Arch} (h : pathFrom cfg code a (n + 1) = some c) :
    ∃ b i, pathFrom cfg code a n = some b ∧ code n = some i ∧ pathStep cfg i b = some c := by
  obtain ⟨b, hb, h⟩ := Option.bind_eq_some_iff.1 h
  obtain ⟨i, hi, h⟩ := Option.bind_eq_some_iff.1 h
  exact ⟨b, i, hb, hi, h⟩

/-- The path has a state at every instruction before one it reaches. -/
theorem pathFrom_of_le {n m : Nat} (hm : n ≤ m) :
    ∀ {c : Arch}, pathFrom cfg code a m = some c → ∃ b, pathFrom cfg code a n = some b := by
  induction m, hm using Nat.le_induction with
  | base => exact fun h => ⟨_, h⟩
  | succ m _ ih =>
    intro c h
    obtain ⟨b, i, hb, -, -⟩ := pathFrom_succ h
    exact ih hb

/-- Only the instructions before its end decide a path. -/
theorem pathFrom_congr {code' : Nat → Option Instr} {n : Nat} (h : ∀ j < n, code' j = code j) :
    pathFrom cfg code' a n = pathFrom cfg code a n := by
  induction n with
  | zero => rfl
  | succ n ih => rw [pathFrom, pathFrom, ih fun j hj => h j (by omega), h n (by omega)]

/-- The path from the state before instruction `k` on. -/
theorem pathFrom_shift {k : Nat} {b : Arch} (h : pathFrom cfg code a k = some b) (n : Nat) :
    pathFrom cfg (fun j => code (j + k)) b n = pathFrom cfg code a (n + k) := by
  induction n with
  | zero => rw [Nat.zero_add, h]; rfl
  | succ n ih => rw [pathFrom, ih, Nat.succ_add]; rfl

theorem pathFrom_pc {n : Nat} : ∀ {c : Arch}, pathFrom cfg code a n = some c → c.pc = a.pc + 4 * BitVec.ofNat 32 n := by
  induction n with
  | zero => rintro c ⟨⟩; simp
  | succ n ih =>
    intro c h
    obtain ⟨b, i, hb, -, hc⟩ := pathFrom_succ h
    rw [pathStep_pc hc, ih hb, BitVec.ofNat_add, BitVec.mul_add, BitVec.add_assoc]
    rfl

theorem pathFrom_wf (ha : a.mem.wf = true) {n : Nat} :
    ∀ {c : Arch}, pathFrom cfg code a n = some c → c.mem.wf = true := by
  induction n with
  | zero => rintro c ⟨⟩; exact ha
  | succ n ih =>
    intro c h
    obtain ⟨b, i, hb, -, hc⟩ := pathFrom_succ h
    exact pathStep_wf hc (ih hb)

/-- A register keeps its value over instructions that do not write it. -/
theorem pathFrom_reg {r : RegName} {n m : Nat} (hm : n ≤ m) {b : Arch} (hb : pathFrom cfg code a n = some b)
    (hr : ∀ j, n ≤ j → j < m → (code j).bind dest? ≠ some r) :
    ∀ {c : Arch}, pathFrom cfg code a m = some c → c.reg r = b.reg r := by
  induction m, hm using Nat.le_induction with
  | base => intro c hc; cases hb.symm.trans hc; rfl
  | succ m hnm ih =>
    intro c h
    obtain ⟨d, i, hd, hi, hc⟩ := pathFrom_succ h
    have hw : dest? i ≠ some r := fun hw => hr m hnm (by omega) (by rw [hi]; exact hw)
    rw [pathStep_reg hc hw, ih (fun j hj hjm => hr j hj (by omega)) hd]

/-- The last result written to a register is its value. -/
theorem pathFrom_dest {r : RegName} {n m : Nat} (hm : n < m) {b : Arch} (hb : pathFrom cfg code a n = some b)
    {i : Instr} (hi : code n = some i) (hd : dest? i = some r) {v : Word} {t : Bool} (hv : Yields cfg i b v t)
    (hr : ∀ j, n < j → j < m → (code j).bind dest? ≠ some r) {c : Arch} (hc : pathFrom cfg code a m = some c) :
    c.reg r = v := by
  obtain ⟨d, hd'⟩ := pathFrom_of_le hm hc
  obtain ⟨b', i', hb', hi', hstep⟩ := pathFrom_succ hd'
  cases hb.symm.trans hb'
  cases hi.symm.trans hi'
  rw [pathFrom_reg hm hd' (fun j hj => hr j hj) hc, pathStep_dest hstep hd hv]

/-- A word keeps its value over stores to other addresses. -/
theorem pathFrom_word (hw : a.mem.wf = true) {x : Word} (hx : x.toNat % 4 = 0) {n m : Nat} (hm : n ≤ m) {b : Arch}
    (hb : pathFrom cfg code a n = some b)
    (hne : ∀ j, n ≤ j → j < m → ∀ i d, code j = some i → isStore i = true → pathFrom cfg code a j = some d →
      d.address i ≠ x) :
    ∀ {c : Arch}, pathFrom cfg code a m = some c → c.mem.readWord x.toNat = b.mem.readWord x.toNat := by
  induction m, hm using Nat.le_induction with
  | base => intro c hc; cases hb.symm.trans hc; rfl
  | succ m hnm ih =>
    intro c h
    obtain ⟨d, i, hd, hi, hc⟩ := pathFrom_succ h
    rw [pathStep_word hc (pathFrom_wf hw hd) hx fun hs => hne m hnm (by omega) i d hi hs hd,
      ih (fun j hj hjm => hne j hj (by omega)) hd]

end path

/-! ## The run of committed instructions -/

/-- One more instruction at the end of a run. -/
theorem archRun_succ {cfg : Config} {prog : List (BitVec 96)} {n : Nat} {i : Instr} {b c : Arch} :
    ∀ {a : Arch}, archRun cfg prog n a = some b → archFetch cfg prog b.pc = some i → archExec cfg i b = some c →
      archRun cfg prog (n + 1) a = some c := by
  induction n with
  | zero =>
    rintro a ⟨⟩ hi hc
    simp [archRun, hi, hc]
  | succ n ih =>
    intro a h hi hc
    rw [archRun] at h ⊢
    split at h
    next j _ =>
      cases ha : archExec cfg j a with
      | none => simp [ha] at h
      | some a' =>
        simp only [ha] at h ⊢
        exact ih h hi hc
    next => cases h

end Sys2Proof.Machine
end

section
/-! PROOFS. The words the instructions in flight hold, in terms of the path of the sequential machine along them
(20_memory.md R71): what an operand, an address and a result must be, for every ROB slot, reservation-station entry,
lane and bypass slot. -/

namespace Sys2Proof.Machine

/-! ## The path of a state -/

/-- The committed state, with the address of the oldest instruction not committed: each of those in flight takes up 4
bytes below `pc` (R112). -/
def State.archHead (s : State) : Arch := s.arch (s.pc - 4 * BitVec.ofNat 32 s.rob.count)

/-- The instruction of age `j` (R14). -/
def State.code (s : State) (j : Nat) : Option Instr := (s.slotAtAge j).instr.instr?

/-- The sequential machine before the instruction of age `n`. -/
def State.pathAt (s : State) (n : Nat) : Option Arch := pathFrom s.cfg s.code s.archHead n

@[simp] theorem State.pathAt_zero (s : State) : s.pathAt 0 = some s.archHead := rfl

/-- `t` has the ring and the committed state of `s`, so its path too. -/
structure State.SamePath (s t : State) : Prop extends s.SameRing t where
  archHead : t.archHead = s.archHead

namespace State.SamePath

variable {s t : State}

theorem ofRing (h : s.SameRing t) (hg : ∀ r, (t.reg r).value = (s.reg r).value) (hm : t.mem = s.mem)
    (hp : t.pc = s.pc) : s.SamePath t :=
  ⟨h, by simp only [State.archHead, State.arch, hg, hm, hp, h.count]⟩

theorem ofExec (h : s.ExecFrame t) : s.SamePath t :=
  ofRing h.toSameRing (fun r => by cases r <;> simp only [State.reg, h.gpr, h.fpr]) h.mem h.pc

variable (h : s.SamePath t)

include h

theorem code : t.code = s.code := by
  funext j
  simp only [State.code, State.slotAtAge, h.head, h.cfg, h.instr]

theorem pathAt (n : Nat) : t.pathAt n = s.pathAt n := by
  simp only [State.pathAt, h.cfg, h.code, h.archHead]

end State.SamePath

/-! ## What a word must be -/

/-- `tag` is the youngest instruction of those older than age `n` that writes `r` (R100). -/
structure State.Producer (s : State) (n : Nat) (r : RegName) (tag : Nat) : Prop where
  live : tag ∈ s.liveTags
  older : s.age tag < n
  writes : destOfRecord (s.slot tag).instr = some r
  last : ∀ j, s.age tag < j → j < n → (s.code j).bind dest? ≠ some r

/-- The operand `o` of the source slot `x` of the instruction of age `n` (R37, R100): the register's value on the path,
or the tag of the result it will have. -/
structure State.OperandFlow (s : State) (n : Nat) (x : Option RegName) (o : Operand) : Prop where
  value : o.ready = true → ∀ a, s.pathAt n = some a → o.value = a.src x
  waits : o.ready = false → ∃ r, x = some r ∧ s.Producer n r o.tag ∧ (s.slot o.tag).ready = false

/-- A ROB slot at a path state: its result, its address, and that a ready store has one (R31, R122, R152). -/
structure RobSlot.Flow (x : RobSlot) (cfg : Config) (p : Option Arch) : Prop where
  value : ∀ i a, x.instr.instr? = some i → p = some a → x.ready = true → Yields cfg i a x.value x.misPred
  addr : ∀ i a, x.instr.instr? = some i → p = some a → x.addrKnown = true → x.addr = a.address i
  known : ∀ i, x.instr.instr? = some i → isStore i = true → x.ready = true → x.addrKnown = true

/-- A busy entry (R37, R122): its operands, its address, and what it has by the time it is in execution. -/
structure State.EntryFlow (s : State) (e : RsEntry) : Prop where
  op1 : ∀ i, e.instr.instr? = some i → s.OperandFlow (s.age e.tagD) (source1? i) e.op1
  op2 : ∀ i, e.instr.instr? = some i → s.OperandFlow (s.age e.tagD) (source2? i) e.op2
  addr : ∀ i a, e.instr.instr? = some i → s.pathAt (s.age e.tagD) = some a → e.addrKnown = true → e.addr = a.address i
  shared : ∀ i, e.instr.instr? = some i → isStore i = true → e.addrKnown = true → (s.slot e.tagD).addrKnown = true
  ready : e.inExec = true → e.op1.ready = true ∧ e.op2.ready = true
  known : ∀ i, e.instr.instr? = some i → (isLoad i = true ∨ isStore i = true) → e.inExec = true → e.addrKnown = true

/-- No store of an age from `n` to `m` writes the word at `x` on the path. -/
def State.NoStore (s : State) (n m : Nat) (x : Word) : Prop :=
  ∀ j, n ≤ j → j < m → ∀ i a, s.code j = some i → isStore i = true → s.pathAt j = some a → a.address i ≠ x

/-- A busy lane or bypass slot `w` of reference `l` that serves the entry `e`: what is done, or bypassed, holds the
instruction's result; a load in a lane reads memory that no older store in flight writes (R133, R136, R143). -/
structure State.UnitFlow (s : State) (l : SlotRef) (w : SlotView) (e : RsEntry) : Prop where
  result : ∀ i a, e.instr.instr? = some i → s.pathAt (s.age e.tagD) = some a → (w.done = true ∨ ∃ j, l = .bypass j) →
    Yields s.cfg i a w.result w.misPred
  clear : ∀ c j i, l = .timed c j → e.instr.instr? = some i → isLoad i = true → s.NoStore 0 (s.age e.tagD) e.addr

/-- The record of age `j` is the one the program has at its address (R105, R106, R112). -/
structure State.Fetched (s : State) (j : Nat) : Prop where
  code : archFetch s.cfg s.prog (s.archHead.pc + 4 * BitVec.ofNat 32 j) = s.code j
  pc : (s.slotAtAge j).instr.pc = s.archHead.pc + 4 * BitVec.ofNat 32 j

/-- Every word in flight is that of the path. -/
structure State.FlowOk (s : State) : Prop where
  fetched : ∀ j < s.rob.count, s.Fetched j
  idle : ∀ r, (s.reg r).busy = false → ∀ j < s.rob.count, (s.code j).bind dest? ≠ some r
  slot : ∀ j < s.rob.count, (s.slotAtAge j).Flow s.cfg (s.pathAt j)
  entry : ∀ q, (s.entry q).busy = true → s.EntryFlow (s.entry q)
  unit : ∀ l, (s.slotView l).busy = true → s.UnitFlow l (s.slotView l) (s.entry (s.slotView l).rs)

/-! ## Ages and tags -/

section ages

variable {s : State} (hs : s.Fit)

include hs

theorem State.slotAtAge_age {u : Nat} (hu : u ∈ s.liveTags) : s.slotAtAge (s.age u) = s.slot u := by
  rw [State.slotAtAge, State.tag_age hs ((State.mem_liveTags_iff hs).1 hu).1]

theorem State.code_age {u : Nat} (hu : u ∈ s.liveTags) : s.code (s.age u) = (s.slot u).instr.instr? := by
  rw [State.code, State.slotAtAge_age hs hu]

theorem State.age_lt {u : Nat} (hu : u ∈ s.liveTags) : s.age u < s.rob.count := ((State.mem_liveTags_iff hs).1 hu).2

/-- A live tag's slot is that of its age only. -/
theorem State.tagAt_eq_iff {u j : Nat} (hu : u ∈ s.liveTags) (hj : j < s.rob.count) :
    (s.rob.head + j) % s.cfg.robSize = u ↔ j = s.age u := by
  have hlt := (State.mem_liveTags_iff hs).1 hu
  constructor
  · rintro rfl
    rw [State.age_tag hs (Nat.lt_of_lt_of_le hj hs.count)]
  · rintro rfl
    exact State.tag_age hs hlt.1

end ages

/-! ## What is carried from one state to another -/

/-- The instructions of `s` of age `k` and more are in flight in `t`, with ages less by `k`; those before have been
committed, so the path of `t` is the rest of the path of `s`. -/
structure State.Carries (s t : State) (k : Nat) : Prop where
  cfg : t.cfg = s.cfg
  prog : t.prog = s.prog
  head : s.pathAt k = some t.archHead
  live : ∀ u ∈ s.liveTags, k ≤ s.age u → u ∈ t.liveTags ∧ t.age u + k = s.age u
  instr : ∀ j, j + k < s.rob.count → (t.slotAtAge j).instr = (s.slotAtAge (j + k)).instr

theorem State.SamePath.carries {s t : State} (h : s.SamePath t) (hp : t.prog = s.prog) : s.Carries t 0 where
  cfg := h.cfg
  prog := hp
  head := congrArg some h.archHead.symm
  live u hu _ := ⟨h.liveTags ▸ hu, h.age u⟩
  instr j _ := by rw [State.slotAtAge, h.instr, h.head, h.cfg]; rfl

section keep

variable {s t : State} {k : Nat} (h : s.Carries t k)

include h

theorem State.Carries.code {j : Nat} (hj : j + k < s.rob.count) : t.code j = s.code (j + k) :=
  congrArg Record.instr? (h.instr j hj)

theorem State.Carries.path {n : Nat} (hn : n + k ≤ s.rob.count) : t.pathAt n = s.pathAt (n + k) := by
  rw [State.pathAt, h.cfg, pathFrom_congr (code := fun j => s.code (j + k)) fun j hj => h.code (by omega)]
  exact pathFrom_shift h.head n

theorem State.Fetched.keep {j : Nat} (hj : j + k < s.rob.count) (hf : s.Fetched (j + k)) : t.Fetched j := by
  have hpc : t.archHead.pc + 4 * BitVec.ofNat 32 j = s.archHead.pc + 4 * BitVec.ofNat 32 (j + k) := by
    rw [pathFrom_pc h.head, Nat.add_comm, BitVec.ofNat_add, BitVec.mul_add, BitVec.add_assoc]
  refine ⟨?_, ?_⟩ <;> rw [hpc]
  · rw [h.cfg, h.prog, h.code hj, hf.code]
  · rw [h.instr j hj, hf.pc]

theorem State.NoStore.keep {n : Nat} (hn : n + k ≤ s.rob.count) {x : Word} (hx : s.NoStore 0 (n + k) x) :
    t.NoStore 0 n x := by
  intro j _ hj i a hi hs ha
  rw [h.code (by omega)] at hi
  rw [h.path (by omega)] at ha
  exact hx (j + k) (Nat.zero_le _) (by omega) i a hi hs ha

variable (hs : s.Fit) (ht : t.Fit)

include hs ht

theorem State.Carries.slotInstr {u : Nat} (hu : u ∈ s.liveTags) (hk : k ≤ s.age u) :
    (t.slot u).instr = (s.slot u).instr := by
  obtain ⟨hlive, hage⟩ := h.live u hu hk
  have hlt := State.age_lt hs hu
  rw [← State.slotAtAge_age ht hlive, h.instr _ (by omega), hage, State.slotAtAge_age hs hu]

theorem State.Producer.keep {n : Nat} (hn : n + k ≤ s.rob.count) {r : RegName} {tag : Nat} (hk : k ≤ s.age tag)
    (hp : s.Producer (n + k) r tag) : t.Producer n r tag := by
  obtain ⟨hlive, hage⟩ := h.live tag hp.live hk
  have hold := hp.older
  refine ⟨hlive, by omega, h.slotInstr hs ht hp.live hk ▸ hp.writes, fun j hj hjn => ?_⟩
  rw [h.code (by omega)]
  exact hp.last (j + k) (by omega) (by omega)

/-- An operand keeps its word, and the tag it waits for if that is still in flight and not ready. -/
theorem State.OperandFlow.keep {n : Nat} (hn : n + k ≤ s.rob.count) {x : Option RegName} {o : Operand}
    (hw : o.ready = false → o.tag ∈ s.liveTags → (s.slot o.tag).ready = false →
      k ≤ s.age o.tag ∧ (t.slot o.tag).ready = false) (ho : s.OperandFlow (n + k) x o) : t.OperandFlow n x o := by
  refine ⟨fun hx a ha => ho.value hx a (h.path hn ▸ ha), fun hx => ?_⟩
  obtain ⟨r, hxr, hp, hr⟩ := ho.waits hx
  obtain ⟨hk, hr⟩ := hw hx hp.live hr
  exact ⟨r, hxr, hp.keep h hs ht hn hk, hr⟩

/-- An entry keeps its words where no slot a result is still to come for becomes ready or leaves. -/
theorem State.EntryFlow.keep {e : RsEntry} (hlive : e.tagD ∈ s.liveTags) (hk : k ≤ s.age e.tagD)
    (hw : ∀ u ∈ s.liveTags, (s.slot u).ready = false → k ≤ s.age u ∧ (t.slot u).ready = false)
    (ha : (s.slot e.tagD).addrKnown = true → (t.slot e.tagD).addrKnown = true) (he : s.EntryFlow e) :
    t.EntryFlow e := by
  have hage := (h.live _ hlive hk).2
  have hlt := State.age_lt hs hlive
  refine ⟨fun i hi => ?_, fun i hi => ?_, ?_, fun i hi hst hx => ha (he.shared i hi hst hx), he.ready, he.known⟩
  · exact (hage ▸ he.op1 i hi).keep h hs ht (by omega) fun _ => hw _
  · exact (hage ▸ he.op2 i hi).keep h hs ht (by omega) fun _ => hw _
  · rw [h.path (by omega), hage]
    exact he.addr

omit hs ht in
/-- A unit keeps its words where the entry it serves keeps its record, tag and address. -/
theorem State.UnitFlow.keep {l : SlotRef} {w : SlotView} {e e' : RsEntry} (hlt : s.age e.tagD < s.rob.count)
    (hlive : e.tagD ∈ s.liveTags) (hk : k ≤ s.age e.tagD) (hi : e'.instr = e.instr) (ht : e'.tagD = e.tagD)
    (ha : e'.addr = e.addr) (hu : s.UnitFlow l w e) : t.UnitFlow l w e' := by
  have hage := (h.live _ hlive hk).2
  refine ⟨?_, fun c j i hl hir hld => ?_⟩
  · rw [hi, ht, h.path (by omega), hage, h.cfg]
    exact hu.result
  · have hclear := hu.clear c j i hl (hi ▸ hir) hld
    rw [← hage] at hclear
    rw [ht, ha]
    exact hclear.keep h (by omega)

end keep

end Sys2Proof.Machine
end

section
/-! PROOFS. The words in flight through an elementary change of the execution phases, and through a broadcast of W
(42:R150 to R155). -/

namespace Sys2Proof.Machine

/-- A block that has not faulted, in the middle of a cycle, with every invariant and every word in flight in order. -/
structure State.Sound (s : State) : Prop where
  fault : s.fault = .noFault
  fit : s.Fit
  regs : s.RegsOk
  mid : s.MidCycleOk
  flow : s.FlowOk

/-! ## ROB slots -/

/-- `y` is the slot `x` but for the stage marker, its times, the store counter and `live`. -/
structure RobSlot.SameWords (x y : RobSlot) : Prop where
  instr : y.instr = x.instr
  ready : y.ready = x.ready
  value : y.value = x.value
  addr : y.addr = x.addr
  addrKnown : y.addrKnown = x.addrKnown
  misPred : y.misPred = x.misPred

theorem RobSlot.SameWords.refl (x : RobSlot) : x.SameWords x := ⟨rfl, rfl, rfl, rfl, rfl, rfl⟩

theorem RobSlot.SameWords.trans {x y z : RobSlot} (h : x.SameWords y) (h' : y.SameWords z) : x.SameWords z :=
  ⟨h'.instr.trans h.instr, h'.ready.trans h.ready, h'.value.trans h.value, h'.addr.trans h.addr,
    h'.addrKnown.trans h.addrKnown, h'.misPred.trans h.misPred⟩

theorem RobSlot.SameWords.flow {x y : RobSlot} (h : x.SameWords y) {cfg : Config} {p : Option Arch}
    (hx : x.Flow cfg p) : y.Flow cfg p := by
  refine ⟨?_, ?_, ?_⟩ <;> simp only [h.instr, h.ready, h.value, h.addr, h.addrKnown, h.misPred]
  · exact hx.value
  · exact hx.addr
  · exact hx.known

theorem State.setSlot_sameWords (s : State) (u : Nat) {x : RobSlot} (hx : (s.slot u).SameWords x) (v : Nat) :
    (s.slot v).SameWords ((s.setSlot u x).slot v) := by
  rw [State.slot_setSlot]
  split_ifs with h
  · exact h.1 ▸ hx
  · exact .refl _

theorem State.markExecuting_sameWords (s : State) (ref : RsRef) (v : Nat) :
    (s.slot v).SameWords ((s.markExecuting ref).slot v) := by
  rw [State.markExecuting_eq]
  refine State.setSlot_sameWords (s.setEntry ref _) _ ?_ v
  exact ⟨rfl, rfl, rfl, rfl, rfl, rfl⟩

theorem State.SameRing.slotAtAge {s t : State} (h : s.SameRing t) (j : Nat) :
    t.slotAtAge j = t.slot ((s.rob.head + j) % s.cfg.robSize) := by
  rw [State.slotAtAge, h.head, h.cfg]

/-! ## Results reach the registers -/

/-- The result of the producer of a register is its value on the path. -/
theorem State.Producer.value {s : State} (hs : s.Fit) {n : Nat} {r : RegName} {tag : Nat} (h : s.Producer n r tag)
    {v : Word} {m : Bool}
    (hv : ∀ i b, (s.slot tag).instr.instr? = some i → s.pathAt (s.age tag) = some b → Yields s.cfg i b v m) {a : Arch}
    (ha : s.pathAt n = some a) : a.reg r = v := by
  obtain ⟨i, hi, hd⟩ := Option.bind_eq_some_iff.1 h.writes
  obtain ⟨b, hb⟩ := pathFrom_of_le h.older.le ha
  exact pathFrom_dest h.older hb ((State.code_age hs h.live).trans hi) hd (hv i b hi hb) h.last ha

/-! ## Units and entries -/

/-- X1 writes no entry in execution (R122). -/
theorem State.entry_generateAddress_of_inExec {s : State} {q : RsRef} (hq : (s.entry q).inExec = true) (k : Nat)
    (imm : Word) (st : Bool) : (s.generateAddress k imm st).entry q = s.entry q := by
  cases hw : (s.entry ⟨.loadB, k⟩).wantsAddress
  · rw [State.generateAddress_skip hw]
  · have hne : q ≠ ⟨.loadB, k⟩ := by
      rintro rfl
      simp [RsEntry.wantsAddress, hq] at hw
    cases st
    · rw [State.generateAddress_load hw, State.entry_setEntry_other _ _ _ _ hne]
    · rw [State.generateAddress_store hw, State.entry_setSlot, State.entry_setEntry_other _ _ _ _ hne]

theorem RsEntry.hear_addr (e : RsEntry) (t : Nat) (v : Word) :
    (e.hear t v).addr = e.addr ∧ (e.hear t v).addrKnown = e.addrKnown := by
  unfold RsEntry.hear
  split_ifs <;> exact ⟨rfl, rfl⟩

/-- An entry in execution keeps its address. -/
theorem ExecChange.addr {s t : State} (h : ExecChange s t) {q : RsRef} (hq : (s.entry q).inExec = true) :
    (t.entry q).addr = (s.entry q).addr := by
  have hmark (u : State) (ref : RsRef) : ((u.markExecuting ref).entry q).addr = (u.entry q).addr := by
    rw [State.entry_markExecuting]
    split_ifs with hr
    · exact hr.1 ▸ rfl
    · rfl
  cases h with
  | turn τ => rfl
  | raise pc addr hf hu => rfl
  | broadcast hd =>
    rw [State.entry_writeResult]
    split_ifs <;> exact (RsEntry.hear_addr _ _ _).1
  | address k imm st => rw [State.entry_generateAddress_of_inExec hq]
  | startLane ho hi hj => exact hmark _ _
  | startBypass v ho hi hj => exact hmark _ _
  | count hb hd ht => rfl
  | finish v m hb hd ht => rfl
  | laneFault pc addr hb hf hu => rfl
  | bypassDone => rfl

theorem ExecChange.carries {s t : State} (h : ExecChange s t) : s.Carries t 0 :=
  (State.SamePath.ofExec h.frame).carries h.frame.prog

/-- The words of a view that a unit's invariant speaks of. -/
theorem State.UnitFlow.view {s : State} {l : SlotRef} {w w' : SlotView} {e : RsEntry} (hu : s.UnitFlow l w e)
    (hr : w'.result = w.result) (hm : w'.misPred = w.misPred)
    (hd : w'.done = true → w.done = true ∨ ∃ j, l = .bypass j) : s.UnitFlow l w' e := by
  refine ⟨fun i a hi ha hw => ?_, hu.clear⟩
  rw [hr, hm]
  exact hu.result i a hi ha (hw.elim hd .inr)

namespace State.Sound

variable {s t : State} (h : s.Sound)

include h

theorem serves {l : SlotRef} (hb : (s.slotView l).busy = true) : s.Serves (s.slotView l).rs l.unit :=
  ((State.slotsOk_iff h.fit).1 h.mid.tables.2.2).1 l hb

theorem placed {q : RsRef} (hb : (s.entry q).busy = true) : s.Placed q :=
  ((State.poolsOk_iff h.fit).1 h.mid.tables.2.1).1 q hb

theorem keep_operand (hc : ExecChange s t) {q : RsRef} (hq : (s.entry q).busy = true) {x : Option RegName} {o : Operand}
    (hw : o.ready = false → (s.slot o.tag).ready = false → (t.slot o.tag).ready = false)
    (ho : s.OperandFlow (s.age (s.entry q).tagD) x o) : t.OperandFlow (t.age (s.entry q).tagD) x o := by
  rw [hc.frame.age]
  exact ho.keep hc.carries h.fit (h.fit.execChange hc) (State.age_lt h.fit (h.placed hq).live).le
    fun hn _ hr => ⟨Nat.zero_le _, hw hn hr⟩

theorem keep_entry (hc : ExecChange s t) {q : RsRef} (hq : (s.entry q).busy = true)
    (hr : ∀ u, (s.slot u).ready = false → (t.slot u).ready = false)
    (hk : ∀ u, (s.slot u).addrKnown = true → (t.slot u).addrKnown = true) : t.EntryFlow (s.entry q) :=
  (h.flow.entry q hq).keep hc.carries h.fit (h.fit.execChange hc) (h.placed hq).live (Nat.zero_le _)
    (fun u _ hu => ⟨Nat.zero_le _, hr u hu⟩) (hk _)

theorem keep_unit (hc : ExecChange s t) {l : SlotRef} {w : SlotView} {q : RsRef} (hq : (s.entry q).busy = true)
    (ha : (t.entry q).addr = (s.entry q).addr) (hu : s.UnitFlow l w (s.entry q)) : t.UnitFlow l w (t.entry q) :=
  have hlive := (h.placed hq).live
  hu.keep hc.carries (State.age_lt h.fit hlive) hlive (Nat.zero_le _) (hc.frame.entryInstr q) (hc.frame.tagD q) ha

/-- An elementary change keeps a state sound where it keeps the words of the slots, the entries and the units. -/
theorem exec (hc : ExecChange s t) (hf : t.fault = .noFault)
    (hslot : ∀ j < s.rob.count, (t.slotAtAge j).Flow s.cfg (s.pathAt j))
    (hentry : ∀ q, (s.entry q).busy = true → t.EntryFlow (t.entry q))
    (hunit : ∀ l, (t.slotView l).busy = true → t.UnitFlow l (t.slotView l) (t.entry (t.slotView l).rs)) : t.Sound := by
  have hframe := hc.frame
  have hpath := State.SamePath.ofExec hframe
  have hreg : t.reg = s.reg := by
    funext r
    cases r <;> simp only [State.reg, hframe.gpr, hframe.fpr]
  refine ⟨hf, h.fit.execChange hc, hframe.regsOk h.regs, hc.midCycleOk h.fit h.mid hf, ?_, ?_, ?_,
    fun q hq => hentry q (hframe.busy q ▸ hq), hunit⟩
  · exact fun j hj => (h.flow.fetched j (hframe.count ▸ hj)).keep hc.carries (hframe.count ▸ hj)
  · rw [hreg, hpath.code, hframe.count]
    exact h.flow.idle
  · rw [hframe.count, hframe.cfg]
    exact fun j hj => hpath.pathAt j ▸ hslot j hj

/-- A unit that was busy with the same words keeps them. -/
theorem unit_of_busy (hc : ExecChange s t) {l : SlotRef} (hb : (s.slotView l).busy = true)
    (hrs : (t.slotView l).rs = (s.slotView l).rs) (hr : (t.slotView l).result = (s.slotView l).result)
    (hm : (t.slotView l).misPred = (s.slotView l).misPred)
    (hd : (t.slotView l).done = true → (s.slotView l).done = true ∨ ∃ j, l = .bypass j) :
    t.UnitFlow l (t.slotView l) (t.entry (t.slotView l).rs) := by
  have hserve := h.serves hb
  rw [hrs]
  exact h.keep_unit hc hserve.busy (hc.addr hserve.inExec) ((h.flow.unit l hb).view hr hm hd)

theorem unit_of_same (hc : ExecChange s t) {l : SlotRef} (hv : t.slotView l = s.slotView l)
    (hb : (t.slotView l).busy = true) : t.UnitFlow l (t.slotView l) (t.entry (t.slotView l).rs) :=
  h.unit_of_busy hc (hv ▸ hb) (by rw [hv]) (by rw [hv]) (by rw [hv]) fun hd => .inl (hv ▸ hd)

/-- A change of lanes and bypass slots alone. -/
theorem units (hc : ExecChange s t) (hf : t.fault = .noFault) (hrob : t.rob = s.rob) (hrs : t.rs = s.rs)
    (hunit : ∀ l, (t.slotView l).busy = true → t.UnitFlow l (t.slotView l) (t.entry (t.slotView l).rs)) : t.Sound := by
  have hpath := State.SamePath.ofExec hc.frame
  have hslot : t.slot = s.slot := by
    funext u
    simp only [State.slot, hrob]
  have hentry : t.entry = s.entry := by
    funext q
    simp only [State.entry, hrs]
  refine h.exec hc hf (fun j hj => ?_) (fun q hq => ?_) hunit
  · rw [hpath.slotAtAge, hslot]
    exact h.flow.slot j hj
  · rw [hentry]
    exact h.keep_entry hc hq (fun u hu => hslot ▸ hu) fun u hu => hslot ▸ hu

theorem withTurn (τ : Turn) : (s.withTurn τ).Sound :=
  h.units (.turn τ) h.fault rfl rfl fun _ hb => h.unit_of_same (.turn τ) rfl hb

/-! ## W -/

/-- An operand that hears the result of its producer has the register's value (R151). -/
theorem operand_hear {l : SlotRef} (hd : (s.slotView l).done = true) {b : Bool} (hc : ExecChange s (s.writeResult l b))
    {q : RsRef} (hq : (s.entry q).busy = true) {x : Option RegName} {o : Operand}
    (ho : s.OperandFlow (s.age (s.entry q).tagD) x o) :
    (s.writeResult l b).OperandFlow ((s.writeResult l b).age (s.entry q).tagD) x
      (o.hear (s.tagOf l) (s.slotView l).result) := by
  have hb := h.mid.busy_of_done hd
  have hplaced := h.placed (h.serves hb).busy
  unfold Operand.hear
  split_ifs with hx
  · obtain ⟨hn, ht⟩ := hx
    obtain ⟨r, rfl, hp, -⟩ := ho.waits hn
    rw [ht] at hp
    refine ⟨fun _ a ha => ?_, nofun⟩
    rw [hc.frame.age, (State.SamePath.ofExec hc.frame).pathAt] at ha
    refine (hp.value h.fit (m := (s.slotView l).misPred) (fun i b hi hb' => ?_) ha).symm
    exact (h.flow.unit l hb).result i b (hplaced.instr ▸ hi) hb' (.inl hd)
  · refine h.keep_operand hc hq (fun hn hr => ?_) ho
    rw [State.slot_writeResult_other _ _ _ fun he => hx ⟨hn, he⟩]
    exact hr

/-- The ROB slot of a broadcast holds the result of its instruction (R152). -/
theorem slot_hear {l : SlotRef} (hd : (s.slotView l).done = true) (now : Count) :
    ((s.slot (s.tagOf l)).hear (s.slotView l).result
      (if (s.entry (s.slotView l).rs).instr.opIsBranch then some (s.slotView l).misPred else none) now).Flow s.cfg
      (s.pathAt (s.age (s.tagOf l))) := by
  have hb := h.mid.busy_of_done hd
  have hserve := h.serves hb
  have hplaced := h.placed hserve.busy
  have hentry := h.flow.entry _ hserve.busy
  have hslot := h.flow.slot _ (State.age_lt h.fit hplaced.live)
  rw [State.slotAtAge_age h.fit hplaced.live] at hslot
  refine ⟨fun i a hi ha _ => ?_, hslot.addr, fun i hi hs _ => ?_⟩
  · have hi : (s.entry (s.slotView l).rs).instr.instr? = some i := hplaced.instr ▸ hi
    refine ((h.flow.unit l hb).result i a hi ha (.inl hd)).outcome fun hbr => ?_
    rw [Record.opIsBranch_of_instr? hi, hbr]
    rfl
  · have hi : (s.entry (s.slotView l).rs).instr.instr? = some i := hplaced.instr ▸ hi
    exact hentry.shared i hi hs (hentry.known i hi (.inr hs) hserve.inExec)

theorem slot_writeResult_same {l : SlotRef} (hd : (s.slotView l).done = true) (b : Bool) :
    (s.writeResult l b).slot (s.tagOf l) = (s.slot (s.tagOf l)).hear (s.slotView l).result
      (if b then some (s.slotView l).misPred else none) s.now := by
  have hlive := (h.placed (h.serves (h.mid.busy_of_done hd)).busy).live
  have hlt : s.tagOf l < s.rob.slots.length := h.fit.slotCount ▸ ((State.mem_liveTags_iff h.fit).1 hlive).1
  rw [State.writeResult_eq, State.slot_freeSlot, State.slot_setEntry, State.slot_setSlot]
  exact if_pos ⟨rfl, hlt⟩

theorem writeResult {l : SlotRef} (hd : (s.slotView l).done = true) :
    (s.writeResult l (s.entry (s.slotView l).rs).instr.opIsBranch).Sound := by
  have hc : ExecChange s _ := .broadcast hd
  have hpath := State.SamePath.ofExec hc.frame
  have hlive := (h.placed (h.serves (h.mid.busy_of_done hd)).busy).live
  have hknown (u : Nat) (hu : (s.slot u).addrKnown = true) :
      ((s.writeResult l (s.entry (s.slotView l).rs).instr.opIsBranch).slot u).addrKnown = true := by
    by_cases he : u = s.tagOf l
    · rw [he, h.slot_writeResult_same hd]
      exact he ▸ hu
    · rwa [State.slot_writeResult_other _ _ _ he]
  refine h.exec hc ((s.writeResult_fault l _).trans h.fault) (fun j hj => ?_) (fun q hq => ?_) fun m hm => ?_
  · rw [hpath.slotAtAge]
    by_cases he : (s.rob.head + j) % s.cfg.robSize = s.tagOf l
    · rw [he, h.slot_writeResult_same hd, (State.tagAt_eq_iff h.fit hlive hj).1 he]
      exact h.slot_hear hd _
    · rw [State.slot_writeResult_other _ _ _ he]
      exact h.flow.slot j hj
  · have he := h.flow.entry q hq
    suffices (s.writeResult l (s.entry (s.slotView l).rs).instr.opIsBranch).EntryFlow
        ((s.entry q).hear (s.tagOf l) (s.slotView l).result) by
      rw [State.entry_writeResult]
      split_ifs
      · exact ⟨this.op1, this.op2, this.addr, this.shared, this.ready, this.known⟩
      · exact this
    rw [RsEntry.hear, if_pos hq]
    refine ⟨fun i hi => ?_, fun i hi => ?_, ?_, fun i hi hs ha => hknown _ (he.shared i hi hs ha), fun hx => ?_,
      he.known⟩
    · exact h.operand_hear hd hc hq (he.op1 i hi)
    · exact h.operand_hear hd hc hq (he.op2 i hi)
    · rw [hpath.age, hpath.pathAt]
      exact he.addr
    · simp [Operand.hear, he.ready hx]
  · have hv := s.slotView_writeResult l (s.entry (s.slotView l).rs).instr.opIsBranch m
    split_ifs at hv with hml
    · rw [hv] at hm
      cases hm
    · exact h.unit_of_same hc hv hm

end State.Sound

end Sys2Proof.Machine
end

section
/-! PROOFS. X1 (41:R122): the address an entry and its ROB slot get is the one on the path. -/

namespace Sys2Proof.Machine

/-- The entry whose address X1 computes, and any other (R122). -/
theorem State.entry_generateAddress {s : State} {k : Nat} (hw : (s.entry ⟨.loadB, k⟩).wantsAddress = true) (imm : Word)
    (st : Bool) (q : RsRef) : (s.generateAddress k imm st).entry q =
      if q = ⟨.loadB, k⟩ then
        { s.entry ⟨.loadB, k⟩ with addr := (s.entry ⟨.loadB, k⟩).op1.value + imm, addrKnown := true }
      else s.entry q := by
  have hlt : k < (s.rs.get .loadB).length := by
    simp only [RsEntry.wantsAddress, Bool.and_eq_true] at hw
    exact State.entry_lt_of_busy hw.1.1.1
  cases st
  · rw [State.generateAddress_load hw, State.entry_setEntry]
    simp only [hlt, and_true]
  · rw [State.generateAddress_store hw, State.entry_setSlot, State.entry_setEntry]
    simp only [hlt, and_true]

/-- A store's slot gets the address too (R122). -/
theorem State.slot_generateAddress {s : State} {k : Nat} (hw : (s.entry ⟨.loadB, k⟩).wantsAddress = true)
    (ht : (s.entry ⟨.loadB, k⟩).tagD < s.rob.slots.length) (imm : Word) (st : Bool) (u : Nat) :
    (s.generateAddress k imm st).slot u =
      if st = true ∧ u = (s.entry ⟨.loadB, k⟩).tagD then
        { s.slot (s.entry ⟨.loadB, k⟩).tagD with addr := (s.entry ⟨.loadB, k⟩).op1.value + imm, addrKnown := true }
      else s.slot u := by
  cases st
  · rw [State.generateAddress_load hw]
    simp
  · rw [State.generateAddress_store hw, State.slot_setSlot]
    simp only [State.setEntry_rob, ht, and_true, true_and, State.slot_setEntry, eq_comm]

theorem State.generateAddress_fault (s : State) (k : Nat) (imm : Word) (st : Bool) :
    (s.generateAddress k imm st).fault = s.fault := by
  cases h : (s.entry ⟨.loadB, k⟩).wantsAddress
  · rw [State.generateAddress_skip h]
  · cases st
    · rw [State.generateAddress_load h, State.setEntry_fault]
    · rw [State.generateAddress_store h, State.setSlot_fault, State.setEntry_fault]

namespace State.Sound

variable {s t : State} (h : s.Sound)

include h

theorem generateAddress {k : Nat} {i : Instr} (hi : (s.entry ⟨.loadB, k⟩).instr.instr? = some i) :
    (s.generateAddress k (immOf i) (isStore i)).Sound := by
  have hc : ExecChange s _ := .address k (immOf i) (isStore i)
  have hpath := State.SamePath.ofExec hc.frame
  cases hw : (s.entry ⟨.loadB, k⟩).wantsAddress
  · rwa [State.generateAddress_skip hw]
  obtain ⟨⟨hb, hx⟩, hr⟩ : ((s.entry ⟨.loadB, k⟩).busy = true ∧ (s.entry ⟨.loadB, k⟩).inExec = false) ∧
      (s.entry ⟨.loadB, k⟩).op1.ready = true := by
    simp only [RsEntry.wantsAddress, Bool.and_eq_true, Bool.not_eq_true'] at hw
    exact hw.1
  have hplaced := h.placed hb
  have he := h.flow.entry _ hb
  have hlt := h.fit.slotCount ▸ ((State.mem_liveTags_iff h.fit).1 hplaced.live).1
  have hslot := State.slot_generateAddress hw hlt (immOf i) (isStore i)
  have haddr (a : Arch) (ha : s.pathAt (s.age (s.entry ⟨.loadB, k⟩).tagD) = some a) :
      (s.entry ⟨.loadB, k⟩).op1.value + immOf i = a.address i := by
    rw [(he.op1 i hi).value hr a ha, Arch.address]
  have hready (u : Nat) (hu : (s.slot u).ready = false) :
      ((s.generateAddress k (immOf i) (isStore i)).slot u).ready = false :=
    (s.generateAddress_slot_ready _ _ _ u).trans hu
  have hknown (u : Nat) (hu : (s.slot u).addrKnown = true) :
      ((s.generateAddress k (immOf i) (isStore i)).slot u).addrKnown = true := by
    rw [hslot]
    split_ifs
    · rfl
    · exact hu
  refine h.exec hc ?_ (fun j hj => ?_) (fun q hq => ?_) fun l hl => ?_
  · rw [State.generateAddress_fault]
    exact h.fault
  · rw [hpath.slotAtAge, hslot]
    have hflow := h.flow.slot j hj
    split_ifs with hu
    · obtain rfl := (State.tagAt_eq_iff h.fit hplaced.live hj).1 hu.2
      rw [State.slotAtAge_age h.fit hplaced.live] at hflow
      refine ⟨hflow.value, fun i' a hi' ha _ => ?_, fun _ _ _ _ => rfl⟩
      cases hi.symm.trans (hplaced.instr ▸ hi')
      exact haddr a ha
    · exact hflow
  · rw [State.entry_generateAddress hw]
    split_ifs with hqk
    · refine ⟨fun i hi => ?_, fun i hi => ?_, fun i' a hi' ha _ => ?_, fun i' hi' hs _ => ?_, he.ready,
        fun _ _ _ _ => rfl⟩
      · exact h.keep_operand hc hb (fun _ => hready _) (he.op1 i hi)
      · exact h.keep_operand hc hb (fun _ => hready _) (he.op2 i hi)
      · cases hi.symm.trans hi'
        rw [hpath.age, hpath.pathAt] at ha
        exact haddr a ha
      · cases hi.symm.trans hi'
        rw [hslot, if_pos ⟨hs, rfl⟩]
    · exact h.keep_entry hc hq hready hknown
  · have hv := s.slotView_generateAddress k (immOf i) (isStore i) l
    exact h.unit_of_same hc hv hl

end State.Sound

end Sys2Proof.Machine
end

section
/-! PROOFS. X2 (41:R130 to R139): what the disambiguation scan finds is right on the path, and a unit that takes an
entry. -/

namespace Sys2Proof.Machine

theorem Record.opIsStore_of_instr? {r : Record} {i : Instr} (h : r.instr? = some i) : r.opIsStore = isStore i := by
  unfold Record.instr? at h
  unfold Record.opIsStore opRow?
  split at h <;> cases h
  all_goals rename_i hop; rw [hop]; rfl

/-! ## The scan by age (R136) -/

/-- The older slots of age below `n`, nearest first. -/
def State.olderSlots (s : State) (n : Nat) : List RobSlot := ((List.range n).map s.slotAtAge).reverse

theorem State.olderSlots_succ (s : State) (n : Nat) : s.olderSlots (n + 1) = s.slotAtAge n :: s.olderSlots n := by
  simp [State.olderSlots, List.range_succ]

/-- The values of a function before that at `k`, where none before is the same. -/
theorem takeWhile_map_range {f : Nat → Nat} {n k : Nat} (hk : k < n) (hne : ∀ j < k, f j ≠ f k) :
    ((List.range n).map f).takeWhile (· ≠ f k) = (List.range k).map f := by
  obtain ⟨m, rfl⟩ := Nat.exists_eq_add_of_lt hk
  rw [Nat.add_assoc, List.range_add, List.map_append, List.takeWhile_append_of_pos]
  · simp [List.range_succ_eq_map]
  · simpa using hne

theorem State.olderTags_slots {s : State} (hs : s.Fit) {u : Nat} (hu : u ∈ s.liveTags) :
    (s.olderTags u).map s.slot = s.olderSlots (s.age u) := by
  have hlt := State.age_lt hs hu
  have hu' := State.tag_age hs ((State.mem_liveTags_iff hs).1 hu).1
  have hne : ∀ j < s.age u, (s.rob.head + j) % s.cfg.robSize ≠ (s.rob.head + s.age u) % s.cfg.robSize := by
    intro j hj he
    rw [hu', State.tagAt_eq_iff hs hu (hj.trans hlt)] at he
    omega
  have hwhile := takeWhile_map_range hlt hne
  rw [hu'] at hwhile
  rw [State.olderTags, State.liveTags, State.tagsFrom, hwhile, List.map_reverse, List.map_map]
  rfl

/-- A slot of the scan is passed over, ends it in a conflict, or forwards its data (R136). -/
theorem scanStores_cons_cases (a : Word) (x : RobSlot) (l : List RobSlot) :
    (x.Transparent a ∧ scanStores a (x :: l) = scanStores a l) ∨ scanStores a (x :: l) = .conflict ∨
    (x.instr.opIsStore = true ∧ x.addrKnown = true ∧ x.addr = a ∧ x.ready = true ∧
      scanStores a (x :: l) = .bypass x.value) := by
  cases hs : x.instr.opIsStore
  · exact .inl ⟨fun h => absurd (hs.symm.trans h) nofun, scanStores_transparent (.inl hs)⟩
  cases hk : x.addrKnown
  · exact .inr (.inl (scanStores_unknown hs hk))
  by_cases ha : x.addr = a
  · have h := scanStores_match (l := l) hs hk ha
    cases hr : x.ready <;> rw [hr] at h
    · exact .inr (.inl h)
    · exact .inr (.inr ⟨rfl, rfl, ha, rfl, h⟩)
  · exact .inl ⟨fun _ => ⟨hk, ha⟩, scanStores_transparent (.inr ⟨hk, ha⟩)⟩

/-- A scan that finds nothing passed over every older slot. -/
theorem State.transparent_of_clear {s : State} {a : Word} {n : Nat} (h : scanStores a (s.olderSlots n) = .clear) :
    ∀ j < n, (s.slotAtAge j).Transparent a := by
  induction n with
  | zero => exact fun j hj => absurd hj (Nat.not_lt_zero j)
  | succ n ih =>
    intro j hj
    rw [State.olderSlots_succ] at h
    obtain ⟨hx, hl⟩ | hl | ⟨-, -, -, -, hl⟩ := scanStores_cons_cases a (s.slotAtAge n) (s.olderSlots n)
    · obtain hj | rfl := Nat.lt_succ_iff_lt_or_eq.1 hj
      · exact ih (hl.symm.trans h) j hj
      · exact hx
    all_goals cases hl.symm.trans h

/-- A scan that forwards found a ready store to the address behind slots it passed over. -/
theorem State.store_of_bypass {s : State} {a v : Word} {n : Nat} (h : scanStores a (s.olderSlots n) = .bypass v) :
    ∃ j < n, (∀ j', j < j' → j' < n → (s.slotAtAge j').Transparent a) ∧ (s.slotAtAge j).instr.opIsStore = true ∧
      (s.slotAtAge j).addrKnown = true ∧ (s.slotAtAge j).addr = a ∧ (s.slotAtAge j).ready = true ∧
      (s.slotAtAge j).value = v := by
  induction n with
  | zero => cases h
  | succ n ih =>
    rw [State.olderSlots_succ] at h
    obtain ⟨hx, hl⟩ | hl | ⟨hs, hk, ha, hr, hl⟩ := scanStores_cons_cases a (s.slotAtAge n) (s.olderSlots n)
    · obtain ⟨j, hj, hbetween, hstore⟩ := ih (hl.symm.trans h)
      refine ⟨j, by omega, fun j' hj' hn => ?_, hstore⟩
      obtain hn | rfl := Nat.lt_succ_iff_lt_or_eq.1 hn
      · exact hbetween j' hj' hn
      · exact hx
    · cases hl.symm.trans h
    · cases hl.symm.trans h
      exact ⟨n, Nat.lt_succ_self n, fun j' hj' hn => by omega, hs, hk, ha, hr, rfl⟩

theorem State.disambiguate_scan {s : State} (hs : s.Fit) {e : RsEntry} (he : e.tagD ∈ s.liveTags) :
    s.disambiguate e = scanStores e.addr (s.olderSlots (s.age e.tagD)) := by
  rw [State.disambiguate, if_pos he, State.olderTags_slots hs he]

namespace State.Sound

variable {s t : State} (h : s.Sound)

include h

/-! ## What the scan finds, on the path -/

/-- Slots a scan passes over do not write the address on the path. -/
theorem noStore {n m : Nat} {x : Word} (hm : m ≤ s.rob.count)
    (ht : ∀ j, n ≤ j → j < m → (s.slotAtAge j).Transparent x) : s.NoStore n m x := by
  intro j hn hj i a hi hs ha
  obtain ⟨hk, hne⟩ := ht j hn hj ((Record.opIsStore_of_instr? hi).trans hs)
  rwa [← (h.flow.slot j (by omega)).addr i a hi ha hk]

theorem head_wf : s.archHead.mem.wf = true := h.fit.memWf

/-- The word a store forwards to a load is the one the load would read (R133, R136). -/
theorem forwarded {q : RsRef} (hb : (s.entry q).busy = true) {i : Instr} (hi : (s.entry q).instr.instr? = some i)
    (hl : isLoad i = true) (hk : (s.entry q).addrKnown = true) {v : Word}
    (hd : s.disambiguate (s.entry q) = .bypass v) {a : Arch} (ha : s.pathAt (s.age (s.entry q).tagD) = some a) :
    Yields s.cfg i a v false := by
  have hlive := (h.placed hb).live
  have haddr := (h.flow.entry q hb).addr i a hi ha hk
  rw [State.disambiguate_scan h.fit hlive] at hd
  obtain ⟨j, hj, hbetween, hst, hjk, hja, hjr, rfl⟩ := State.store_of_bypass hd
  have hlt := State.age_lt h.fit hlive
  obtain ⟨c, hc⟩ := pathFrom_of_le (Nat.succ_le_of_lt hj) ha
  obtain ⟨b, i', hb', hi', hstep⟩ := pathFrom_succ hc
  have hs' : isStore i' = true := (Record.opIsStore_of_instr? hi').symm.trans hst
  have hflow := h.flow.slot j (by omega)
  have hba : b.address i' = a.address i := (hflow.addr i' b hi' hb' hjk).symm.trans (hja.trans haddr)
  have hv := (yields_store hs').1 (hflow.value i' b hi' hb' hjr)
  obtain ⟨-, hacc, rfl⟩ | ⟨hn, -⟩ := pathStep_cases hstep
  · rw [hba] at hacc
    have hword := pathFrom_word h.head_wf (accessFault_eq_none.1 hacc).1 (Nat.succ_le_of_lt hj) hc
      (h.noStore hlt.le (haddr ▸ hbetween)) ha
    rw [hba, Memory.readWord_writeWord (pathFrom_wf h.head_wf hb'), ← hv] at hword
    rw [yields_other (isStore_of_isLoad hl) (isBranch_of_isLoad hl), archExec_load hl, if_pos hacc, hword]
  · cases hs'.symm.trans hn

/-- The word a load reads from memory, where no older store in flight writes it, is the path's (R143). -/
theorem loaded {i : Instr} (hl : isLoad i = true) {n : Nat} {a : Arch} (ha : s.pathAt n = some a)
    (hacc : accessFault s.cfg (a.address i) = none) (hn : s.NoStore 0 n (a.address i)) :
    Yields s.cfg i a (s.mem.readWord (a.address i).toNat) false := by
  have hword := pathFrom_word h.head_wf (accessFault_eq_none.1 hacc).1 (Nat.zero_le n) s.pathAt_zero hn ha
  rw [yields_other (isStore_of_isLoad hl) (isBranch_of_isLoad hl), archExec_load hl, if_pos hacc, hword]
  rfl

/-! ## A unit takes an entry (R131, R132) -/

/-- An entry with its operands, and its address where it has one, goes to the unit `l₀` of `u` (R131 to R134). -/
theorem start {u : State} {l₀ : SlotRef} {ref : RsRef} (hc : ExecChange s (u.markExecuting ref)) (hrob : u.rob = s.rob)
    (hrs : u.rs = s.rs) (hf : u.fault = s.fault) (hother : ∀ l, l ≠ l₀ → u.slotView l = s.slotView l)
    (hnew : (u.slotView l₀).rs = ref) (hb : (s.entry ref).busy = true)
    (hready : (s.entry ref).op1.ready = true ∧ (s.entry ref).op2.ready = true)
    (hknown : ∀ i, (s.entry ref).instr.instr? = some i → (isLoad i = true ∨ isStore i = true) →
      (s.entry ref).addrKnown = true)
    (hunit : s.UnitFlow l₀ (u.slotView l₀) (s.entry ref)) : (u.markExecuting ref).Sound := by
  have hpath := State.SamePath.ofExec hc.frame
  have hslot : u.slot = s.slot := by
    funext v
    simp only [State.slot, hrob]
  have hentry : u.entry = s.entry := by
    funext q
    simp only [State.entry, hrs]
  have hwords (v : Nat) : (s.slot v).SameWords ((u.markExecuting ref).slot v) :=
    hslot ▸ u.markExecuting_sameWords ref v
  refine h.exec hc (hf.trans h.fault) (fun j hj => ?_) (fun q hq => ?_) fun l hl => ?_
  · rw [hpath.slotAtAge]
    exact (hwords _).flow (h.flow.slot j hj)
  · have he := h.keep_entry hc hq (fun v hv => (hwords v).ready.trans hv)
      fun v hv => (hwords v).addrKnown.trans hv
    rw [State.entry_markExecuting, hentry]
    split_ifs with hqr
    · obtain ⟨rfl, -⟩ := hqr
      exact ⟨he.op1, he.op2, he.addr, he.shared, fun _ => hready, fun i hi hm _ => hknown i hi hm⟩
    · exact he
  · by_cases hl₀ : l = l₀
    · subst hl₀
      rw [State.slotView_markExecuting, hnew]
      refine h.keep_unit hc hb ?_ hunit
      rw [State.entry_markExecuting, hentry]
      split_ifs <;> rfl
    · exact h.unit_of_same hc ((u.slotView_markExecuting ref l).trans (hother l hl₀)) hl

theorem startLane {c : UnitClass} {ref : RsRef} {j : Nat} (ho : s.Offered c ref) (hi : ref.inRange s.cfg = true)
    (hj : s.freeLane c = some j)
    (hknown : ∀ i, (s.entry ref).instr.instr? = some i → (isLoad i = true ∨ isStore i = true) →
      (s.entry ref).addrKnown = true)
    (hclear : ∀ i, (s.entry ref).instr.instr? = some i → isLoad i = true →
      s.disambiguate (s.entry ref) = .clear) :
    ((s.setLane c j ⟨true, ref, s.cfg.lat.get c, 0, false, false⟩).markExecuting ref).Sound := by
  have hb := ho.2.2.1
  have hv := s.slotView_setLane c j ⟨true, ref, s.cfg.lat.get c, 0, false, false⟩
  have hnew := (hv (.timed c j)).trans (if_pos ⟨rfl, (State.freeLane_spec hj).1⟩)
  refine h.start (l₀ := .timed c j) (.startLane ho hi hj) rfl rfl rfl
    (fun l hl => (hv l).trans (if_neg fun hx => hl hx.1)) (by rw [hnew]) ho.2.2.1 ho.2.2.2.2 hknown ?_
  rw [hnew]
  refine ⟨fun i a _ _ hd => ?_, fun _ _ i _ hir hl => ?_⟩
  · obtain hd | ⟨k, hd⟩ := hd <;> cases hd
  · have hlive := (h.placed hb).live
    have hd := hclear i hir hl
    rw [State.disambiguate_scan h.fit hlive] at hd
    exact h.noStore (State.age_lt h.fit hlive).le fun j _ hj => State.transparent_of_clear hd j hj

theorem startBypass {ref : RsRef} {j : Nat} {v : Word} (ho : s.Offered .memory ref) (hi : ref.inRange s.cfg = true)
    (hj : s.freeByp = some j) (hknown : (s.entry ref).addrKnown = true)
    (hv : ∀ i a, (s.entry ref).instr.instr? = some i → s.pathAt (s.age (s.entry ref).tagD) = some a →
      Yields s.cfg i a v false) :
    ((s.setByp j ⟨true, ref, v, false⟩).markExecuting ref).Sound := by
  have hview := s.slotView_setByp j ⟨true, ref, v, false⟩
  have hnew := (hview (.bypass j)).trans (if_pos ⟨rfl, (State.freeByp_spec hj).1⟩)
  refine h.start (l₀ := .bypass j) (.startBypass v ho hi hj) rfl rfl rfl
    (fun l hl => (hview l).trans (if_neg fun hx => hl hx.1)) (by rw [hnew]) ho.2.2.1 ho.2.2.2.2 (fun _ _ _ => hknown) ?_
  rw [hnew]
  exact ⟨fun i a hir ha _ => hv i a hir ha, nofun⟩

end State.Sound

end Sys2Proof.Machine
end

section
/-! PROOFS. X3 (42:R140 to R145): what a lane computes is the result on the path. -/

namespace Sys2Proof.Machine

/-- An instruction that computes its word in a lane has one in the sequential machine (44, 47). -/
theorem aluWord_of_computed {i : Instr} (he : i ≠ .eop) (hl : isLoad i = false) (hs : isStore i = false)
    (hb : isBranch i = false) (hd : ∀ rd rs rt, i ≠ .div rd rs rt) (cfg : Config) (x y : Word) :
    aluWord cfg i x y = some ((aluWord cfg i x y).getD 0) := by
  cases i <;> simp [isLoad, isStore, isBranch] at hl hs hb he hd <;> rfl

/-- A countdown that ends without a fault leaves the lane done with a word and an outcome: a load's read, a branch's
target, or the word of the sequential machine. -/
theorem computes_unfaulted {s t : State} {c : UnitClass} {j : Nat} (hb : (s.lane c j).busy = true) {i : Instr}
    {e : RsEntry} (h : computes i c j e (s.setLane c j { s.lane c j with ttl := 0 }) = t) (hf : t.fault = .noFault) :
    ∃ v m τ, t = (s.laneDone c j v m).withTurn τ ∧
      ((isLoad i = true ∧ accessFault s.cfg e.addr = none ∧ v = s.mem.readWord e.addr.toNat) ∨
       (isBranch i = true ∧ v = e.instr.pc + 4 + immOf i ∧ m = branchTaken i e.op1.value) ∨
       (i ≠ .eop ∧ isLoad i = false ∧ isStore i = false ∧ isBranch i = false ∧
         aluWord s.cfg i e.op1.value e.op2.value = some v)) := by
  have hfinish (v : Word) (m : Bool) := State.finishLane_at_zero hb v m
  unfold computes at h
  split_ifs at h with hl hbr hst
  · unfold State.finishLoad State.memRead at h
    cases hm : accessFault (s.setLane c j { s.lane c j with ttl := 0 }).cfg e.addr with
    | some f =>
      rw [hm] at h
      subst h
      exact absurd hf (accessFault_ne hm).1
    | none =>
      rw [hm] at h
      dsimp only at h
      rw [hfinish] at h
      exact ⟨_, false, _, h.symm, .inl ⟨hl, hm, rfl⟩⟩
  · rw [hfinish] at h
    exact ⟨_, _, s.turn, h.symm, .inr (.inl ⟨hbr, rfl, rfl⟩)⟩
  · subst h
    cases hf
  · obtain ⟨hst, he⟩ := not_or.1 hst
    simp only [Bool.not_eq_true] at hl hbr hst
    split at h
    next rd rs rt =>
      cases hx : divide (s.setLane c j { s.lane c j with ttl := 0 }).cfg.divSigned e.op1.value e.op2.value with
      | ok v =>
        rw [hx] at h
        refine ⟨v, false, s.turn, ((hfinish v false).symm.trans h).symm, .inr (.inr ⟨he, hl, hst, hbr, aluWord_div hx⟩)⟩
      | error f =>
        rw [hx] at h
        subst h
        cases (divide_error hx).symm.trans hf
    next hd =>
      rw [hfinish] at h
      refine ⟨_, false, s.turn, h.symm, .inr (.inr ⟨he, hl, hst, hbr, ?_⟩)⟩
      exact aluWord_of_computed he hl hst hbr (fun rd rs rt => hd rd rs rt) _ _ _

namespace State.Sound

variable {s t : State} (h : s.Sound)

include h

/-- A lane that counts down, or is done with the result of its instruction. -/
theorem setLane {c : UnitClass} {j : Nat} {x : Lane} (hc : ExecChange s (s.setLane c j x))
    (hb : (s.lane c j).busy = true) (hrs : x.rs = (s.lane c j).rs)
    (hx : (x.result = (s.lane c j).result ∧ x.misPred = (s.lane c j).misPred ∧ x.done = (s.lane c j).done) ∨
      ∀ i a, (s.served c j).instr.instr? = some i → s.pathAt (s.age (s.served c j).tagD) = some a →
        Yields s.cfg i a x.result x.misPred) :
    (s.setLane c j x).Sound := by
  refine h.units hc h.fault rfl rfl fun l hl => ?_
  have hv := s.slotView_setLane c j x l
  split_ifs at hv with hlj
  · obtain ⟨rfl, -⟩ := hlj
    have hbusy : (s.slotView (.timed c j)).busy = true := hb
    obtain ⟨hr, hm, hd⟩ | hx := hx
    · refine h.unit_of_busy hc hbusy ?_ ?_ ?_ ?_ <;> rw [hv]
      · exact hrs
      · exact hr
      · exact hm
      · exact fun hdone => .inl (hd.symm.trans hdone)
    · rw [hv]
      dsimp only
      rw [hrs]
      have hserve := h.serves hbusy
      exact h.keep_unit hc hserve.busy (hc.addr hserve.inExec)
        ⟨fun i a hi ha _ => hx i a hi ha, (h.flow.unit _ hbusy).clear⟩
  · exact h.unit_of_same hc hv hl

/-- What a lane computes is the result of its instruction on the path (R141, R143, R230). -/
theorem computed {c : UnitClass} {j : Nat} (hb : (s.lane c j).busy = true) {i : Instr}
    (hi : (s.served c j).instr.instr? = some i) {v : Word} {m : Bool}
    (hv : (isLoad i = true ∧ accessFault s.cfg (s.served c j).addr = none ∧
        v = s.mem.readWord (s.served c j).addr.toNat) ∨
      (isBranch i = true ∧ v = (s.served c j).instr.pc + 4 + immOf i ∧
        m = branchTaken i (s.served c j).op1.value) ∨
      (i ≠ .eop ∧ isLoad i = false ∧ isStore i = false ∧ isBranch i = false ∧
        aluWord s.cfg i (s.served c j).op1.value (s.served c j).op2.value = some v)) {a : Arch}
    (ha : s.pathAt (s.age (s.served c j).tagD) = some a) : Yields s.cfg i a v m := by
  have hbusy : (s.slotView (.timed c j)).busy = true := hb
  have hserve : s.Serves (s.lane c j).rs c := h.serves hbusy
  have hplaced : s.Placed (s.lane c j).rs := h.placed hserve.busy
  have he : s.EntryFlow (s.served c j) := h.flow.entry _ hserve.busy
  obtain ⟨hr1, hr2⟩ := he.ready hserve.inExec
  have h1 := (he.op1 i hi).value hr1 a ha
  have h2 := (he.op2 i hi).value hr2 a ha
  obtain ⟨hl, hacc, rfl⟩ | ⟨hbr, rfl, rfl⟩ | ⟨hne, hl, hst, hbr, hw⟩ := hv
  · have haddr := he.addr i a hi ha (he.known i hi (.inl hl) hserve.inExec)
    have hclear := (h.flow.unit _ hbusy).clear c j i rfl hi hl
    change s.NoStore 0 (s.age (s.served c j).tagD) (s.served c j).addr at hclear
    rw [haddr] at hacc hclear ⊢
    exact (h.loaded hl ha hacc hclear).outcome fun hbr => absurd ((isBranch_of_isLoad hl).symm.trans hbr) nofun
  · have hlive := hplaced.live
    have hpc := (h.flow.fetched _ (State.age_lt h.fit hlive)).pc
    rw [State.slotAtAge_age h.fit hlive, hplaced.instr] at hpc
    refine (yields_branch hbr).2 ⟨?_, by rw [h1]⟩
    rw [pathFrom_pc ha]
    exact congrArg (· + 4 + immOf i) hpc
  · rw [yields_other hst hbr, archExec_alu hne hl hst hbr, ← h1, ← h2, hw]
    rfl

end State.Sound

/-! ## Loops and turns that raise no fault -/

theorem forEach_unfaulted {α : Type} {P : State → Prop} {f : α → State → Result} {l : List α}
    (hf : ∀ x ∈ l, ∀ s t, P s → f x s = .next t → t.fault = .noFault → P t) :
    ∀ s t, P s → forEach f l s = .next t → t.fault = .noFault → P t := by
  induction l with
  | nil => rintro s t hs ⟨⟩ -; exact hs
  | cons x l ih =>
    intro s t hs h ht
    obtain ⟨u, hu, ⟨hn, rfl⟩ | ⟨hn, h⟩⟩ := andThen_eq_next h
    · exact absurd ht hn
    · exact ih (fun y hy => hf y (List.mem_cons_of_mem x hy)) u t (hf x List.mem_cons_self s u hs hu hn) h ht

/-- A loop whose pass for `x` brings about `Q x`, and whose passes keep it. -/
theorem forEach_establishes {α : Type} {P : State → Prop} {Q : α → State → Prop} {f : α → State → Result}
    (hf : ∀ x s t, P s → f x s = .next t → t.fault = .noFault → P t ∧ Q x t ∧ ∀ y, Q y s → Q y t) (l : List α) :
    ∀ s t, P s → forEach f l s = .next t → t.fault = .noFault → P t ∧ (∀ x ∈ l, Q x t) ∧ ∀ y, Q y s → Q y t := by
  induction l with
  | nil => rintro s t hs ⟨⟩ -; exact ⟨hs, nofun, fun _ => id⟩
  | cons x l ih =>
    intro s t hs h ht
    obtain ⟨u, hu, ⟨hn, rfl⟩ | ⟨hn, h⟩⟩ := andThen_eq_next h
    · exact absurd ht hn
    · obtain ⟨hPu, hQx, hkeep⟩ := hf x s u hs hu hn
      obtain ⟨hPt, hQl, hkeep'⟩ := ih u t hPu h ht
      refine ⟨hPt, fun y hy => ?_, fun y hy => hkeep' y (hkeep y hy)⟩
      obtain rfl | hy := List.mem_cons.1 hy
      · exact hkeep' _ hQx
      · exact hQl y hy

theorem visit_unfaulted {p : Phase} {r : Record} {s t : State} (h : visit p r s = .next t) (ht : t.fault = .noFault) :
    ∃ i, r.instr? = some i ∧ exec i (s.atPhase p) = .next t := by
  obtain h | rfl := visit_cases h
  · exact h
  · cases ht

theorem andThen_unfaulted {o : Result} {f : State → Result} {t : State} (h : andThen o f = .next t)
    (ht : t.fault = .noFault) : ∃ u, o = .next u ∧ u.fault = .noFault ∧ f u = .next t := by
  obtain ⟨u, hu, ⟨hn, rfl⟩ | ⟨hn, h⟩⟩ := andThen_eq_next h
  · exact absurd ht hn
  · exact ⟨u, hu, hn, h⟩

/-! ## W, X1, X2 and X3 -/

namespace State.Sound

variable {s t : State} (h : s.Sound)

include h

theorem atPhase (p : Phase) : (s.atPhase p).Sound := h.withTurn _

theorem of_writebackPhase (hw : writebackPhase s = .next t) (ht : t.fault = .noFault) : t.Sound := by
  refine forEach_unfaulted (P := State.Sound) (fun l _ s t h hw ht => ?_) s t h hw ht
  unfold writebackSlot at hw
  split_ifs at hw with hd
  · obtain ⟨i, hi, hx⟩ := visit_unfaulted hw ht
    cases (exec_at_writeback rfl i).symm.trans hx
    split_ifs
    · exact h.atPhase _
    · exact Record.opIsBranch_of_instr? hi ▸ (h.atPhase (.writeback l)).writeResult hd
  · cases hw
    exact h

end State.Sound

end Sys2Proof.Machine
end

section
/-! PROOFS. The phases from W to X3 as a whole (43:R180): they keep a sound state sound, and after X1 every load and
store that has its base has its address (41:R122). -/

namespace Sys2Proof.Machine

theorem isMemory_of_classOf? {i : Instr} (h : classOf? i = some .memory) : isLoad i = true ∨ isStore i = true := by
  cases i <;> simp [classOf?] at h <;> simp [isLoad, isStore]

theorem classOf?_of_isMemory {i : Instr} (h : isLoad i = true ∨ isStore i = true) : classOf? i = some .memory := by
  cases i <;> simp [isLoad, isStore] at h <;> rfl

/-- After X1 (R122): a busy entry `k` of `LOAD_B` with its base has its address. -/
def State.Addressed (k : Nat) (s : State) : Prop :=
  (s.entry ⟨.loadB, k⟩).busy = true → (s.entry ⟨.loadB, k⟩).op1.ready = true →
    (s.entry ⟨.loadB, k⟩).addrKnown = true

/-- A sound state in X2: X1 has computed every address it could. -/
structure State.Dispatching (s : State) : Prop extends s.Sound where
  addressed : ∀ k, State.Addressed k s

/-! ## X1 -/

namespace State.Sound

variable {s t : State} (h : s.Sound)

include h

/-- A busy entry of `LOAD_B` is a load or a store (R36). -/
theorem isMemory {k : Nat} (hb : (s.entry ⟨.loadB, k⟩).busy = true) {i : Instr}
    (hi : (s.entry ⟨.loadB, k⟩).instr.instr? = some i) : isLoad i = true ∨ isStore i = true := by
  have hp := (h.placed hb).pool
  rw [Record.unitClass?_of_instr? hi] at hp
  obtain ⟨c, hc, hp⟩ := Option.map_eq_some_iff.1 hp
  cases c <;> cases hp
  exact isMemory_of_classOf? hc

theorem generateAddress_addressed {k : Nat} {i : Instr} (hi : (s.entry ⟨.loadB, k⟩).instr.instr? = some i)
    (imm : Word) (st : Bool) :
    State.Addressed k (s.generateAddress k imm st) ∧
      ∀ k', State.Addressed k' s → State.Addressed k' (s.generateAddress k imm st) := by
  cases hw : (s.entry ⟨.loadB, k⟩).wantsAddress
  · rw [State.generateAddress_skip hw]
    refine ⟨fun hb hr => ?_, fun k' => id⟩
    cases hk : (s.entry ⟨.loadB, k⟩).addrKnown
    · cases hx : (s.entry ⟨.loadB, k⟩).inExec
      · simp [RsEntry.wantsAddress, hb, hr, hk, hx] at hw
      · exact hk.symm.trans ((h.flow.entry _ hb).known i hi (h.isMemory hb hi) hx)
    · rfl
  · have hentry := State.entry_generateAddress hw imm st
    refine ⟨fun _ _ => by rw [hentry, if_pos rfl], fun k' hk' => ?_⟩
    unfold State.Addressed
    rw [hentry]
    split_ifs
    · exact fun _ _ => rfl
    · exact hk'

theorem of_addressEntry {k : Nat} (hx : addressEntry k s = .next t) (ht : t.fault = .noFault) :
    t.Sound ∧ State.Addressed k t ∧ ∀ k', State.Addressed k' s → State.Addressed k' t := by
  unfold addressEntry at hx
  split_ifs at hx with hb
  · obtain ⟨i, hi, hx⟩ := visit_unfaulted hx ht
    have hs := h.atPhase (.address k)
    cases (exec_at_address rfl i).symm.trans hx
    rw [if_pos (by simpa using h.isMemory hb hi)]
    exact ⟨hs.generateAddress hi, hs.generateAddress_addressed hi _ _⟩
  · cases hx
    exact ⟨h, fun hb' => absurd hb' hb, fun _ => id⟩

theorem of_addressPhase (hx : addressPhase s = .next t) (ht : t.fault = .noFault) : t.Dispatching := by
  obtain ⟨hst, hall, -⟩ := forEach_establishes (P := State.Sound) (Q := State.Addressed)
    (fun k s t hs => hs.of_addressEntry) _ s t h hx ht
  refine ⟨hst, fun k hb => hall k ?_ hb⟩
  have hk := State.entry_lt_of_busy hb
  rw [hst.fit.poolSize, (addressPhase_run hx).frame.cfg] at hk
  exact List.mem_range.2 hk

end State.Sound

/-! ## X2 -/

theorem State.markExecuting_addressed {s u : State} {ref : RsRef} (hrs : u.rs = s.rs) (ha : ∀ k, State.Addressed k s)
    (k : Nat) : State.Addressed k (u.markExecuting ref) := by
  have hentry : u.entry = s.entry := by
    funext q
    simp only [State.entry, hrs]
  unfold State.Addressed
  rw [State.entry_markExecuting, hentry]
  split_ifs with hk
  · obtain ⟨rfl, -⟩ := hk
    exact ha k
  · exact ha k

namespace State.Dispatching

variable {s t : State} (h : s.Dispatching)

include h

theorem withTurn (τ : Turn) : (s.withTurn τ).Dispatching := ⟨h.toSound.withTurn τ, h.addressed⟩

/-- A memory instruction that X2 may start has its address: it has its base since W at the latest (R120, R122). -/
theorem addrKnown {ref : RsRef} (ho : s.Offered .memory ref) : (s.entry ref).addrKnown = true := by
  obtain ⟨p, k⟩ := ref
  obtain rfl : p = .loadB := ho.1
  exact h.addressed k ho.2.2.1 ho.2.2.2.2.1

theorem startLane {c : UnitClass} {ref : RsRef} {j : Nat} (ho : s.Offered c ref) (hi : ref.inRange s.cfg = true)
    (hj : s.freeLane c = some j)
    (hclear : ∀ i, (s.entry ref).instr.instr? = some i → isLoad i = true →
      s.disambiguate (s.entry ref) = .clear) :
    ((s.setLane c j ⟨true, ref, s.cfg.lat.get c, 0, false, false⟩).markExecuting ref).Dispatching := by
  refine ⟨h.toSound.startLane ho hi hj (fun i hir hm => ?_) hclear, State.markExecuting_addressed rfl h.addressed⟩
  have hc := ho.2.1
  rw [Record.unitClass?_of_instr? hir, classOf?_of_isMemory hm] at hc
  cases hc
  exact h.addrKnown ho

theorem dispatchTimed {c : UnitClass} {ref : RsRef} (ho : s.Offered c ref) (hi : ref.inRange s.cfg = true)
    (hclear : ∀ i, (s.entry ref).instr.instr? = some i → isLoad i = true →
      s.disambiguate (s.entry ref) = .clear) : (s.dispatchTimed c ref).Dispatching := by
  cases hj : s.freeLane c with
  | none => rwa [State.dispatchTimed_none hj]
  | some j =>
    rw [State.dispatchTimed_some hj]
    exact h.startLane ho hi hj hclear

theorem dispatchBypass {ref : RsRef} (ho : s.Offered .memory ref) (hi : ref.inRange s.cfg = true) {v : Word}
    (hv : ∀ i a, (s.entry ref).instr.instr? = some i → s.pathAt (s.age (s.entry ref).tagD) = some a →
      Yields s.cfg i a v false) : (s.dispatchBypass ref v).Dispatching := by
  cases hj : s.freeByp with
  | none => rwa [State.dispatchBypass_none hj]
  | some j =>
    rw [State.dispatchBypass_some hj]
    exact ⟨h.toSound.startBypass ho hi hj (h.addrKnown ho) hv, State.markExecuting_addressed rfl h.addressed⟩

theorem dispatchLoad {ref : RsRef} (ho : (s.entry ref).eligible = true → s.Offered .memory ref)
    (hi : ref.inRange s.cfg = true) {i : Instr} (hir : (s.entry ref).instr.instr? = some i) (hl : isLoad i = true)
    (ht : (s.dispatchLoad ref).fault = .noFault) : (s.dispatchLoad ref).Dispatching := by
  obtain ⟨-, hx⟩ | ⟨he, ⟨-, hx⟩ | ⟨-, hx⟩ | ⟨v, hd, hx⟩ | ⟨hd, hx⟩⟩ := s.dispatchLoad_cases ref <;> rw [hx] at ht ⊢
  · exact h
  · cases ht
  · exact h
  · refine h.dispatchBypass (ho he) hi fun i' a hi' ha => ?_
    cases hir.symm.trans hi'
    exact h.forwarded (ho he).2.2.1 hir hl (h.addrKnown (ho he)) hd ha
  · obtain ⟨hx, -⟩ | ⟨j, -, -, hj, hx⟩ := s.dispatchMemory_cases ref <;> rw [hx]
    · exact h
    · exact (h.startLane (ho he) hi hj fun _ _ _ => hd).withTurn _

theorem dispatchStore {ref : RsRef} (ho : (s.entry ref).eligible = true → s.Offered .memory ref)
    (hi : ref.inRange s.cfg = true) {i : Instr} (hir : (s.entry ref).instr.instr? = some i) (hs : isStore i = true) :
    (s.dispatchStore ref).Dispatching := by
  unfold State.dispatchStore
  split_ifs with he
  · refine h.dispatchBypass (ho he) hi fun i' a hi' ha => ?_
    cases hir.symm.trans hi'
    exact (yields_store hs).2 (((h.flow.entry ref (ho he).2.2.1).op2 i hir).value (ho he).2.2.2.2.2 a ha)
  · exact h

theorem dispatchAlu {c : UnitClass} {ref : RsRef} (ho : (s.entry ref).eligible = true → s.Offered c ref)
    (hi : ref.inRange s.cfg = true) {i : Instr} (hir : (s.entry ref).instr.instr? = some i) (hl : isLoad i = false) :
    (s.dispatchAlu c ref).Dispatching := by
  unfold State.dispatchAlu
  split_ifs with he
  · refine h.dispatchTimed (ho he) hi fun i' hi' hl' => ?_
    cases hir.symm.trans hi'
    cases hl.symm.trans hl'
  · exact h

/-- A dispatch turn: the entry waits, or starts with what X2's rules ask for (R131 to R137). -/
theorem of_dispatchEntry {c : UnitClass} {ref : RsRef} (hp : ref.pool = c.pool) (hr : ref.inRange s.cfg = true)
    (hc : (s.entry ref).instr.unitClass? = some c) (hx : dispatchEntry ref s = .next t) (ht : t.fault = .noFault) :
    t.Dispatching := by
  obtain ⟨i, hi, hx⟩ := visit_unfaulted hx ht
  have hs : (s.atPhase (.dispatch ref)).Dispatching := h.withTurn _
  have hci := (Record.unitClass?_of_instr? hi).symm.trans hc
  have ho := State.offered_of_eligible (s := s.atPhase (.dispatch ref)) hp hc
  rw [exec_at_dispatch rfl, hci] at hx
  cases hx
  dsimp only at ht ⊢
  split_ifs at ht ⊢ with hl hst
  · cases hci.symm.trans (classOf?_of_isMemory (.inl hl))
    exact hs.dispatchLoad ho hr hi hl ht
  · cases hci.symm.trans (classOf?_of_isMemory (.inr hst))
    exact hs.dispatchStore ho hr hi hst
  · exact hs.dispatchAlu ho hr hi (by simpa using hl)

theorem of_dispatchClass {c : UnitClass} (hx : dispatchClass c s = .next t) (ht : t.fault = .noFault) :
    t.Dispatching := by
  refine (forEach_unfaulted (P := fun u => s.ExecFrame u ∧ u.Dispatching) (fun ref href u v hu hx hv => ?_) s t
    ⟨.refl s, h⟩ hx ht).2
  obtain ⟨hp, hi, hc⟩ := State.mem_entriesOldestFirst href
  have hi : ref.inRange u.cfg = true := hu.1.cfg ▸ hi
  have hc : (u.entry ref).instr.unitClass? = some c := hu.1.entryInstr ref ▸ hc
  exact ⟨hu.1.trans (dispatchEntry_run hp hi hc hx).frame, hu.2.of_dispatchEntry hp hi hc hx hv⟩

theorem of_dispatchPhase (hx : dispatchPhase s = .next t) (ht : t.fault = .noFault) : t.Sound :=
  (forEach_unfaulted (P := State.Dispatching) (fun _ _ _ _ hu => hu.of_dispatchClass) _ t (h.withTurn _) hx ht).toSound

end State.Dispatching

/-! ## X3 -/

/-- X3 writes no result of a bypass slot, and makes no lane done by itself (R144). -/
theorem State.slotView_bypassDone_words (s : State) (l : SlotRef) :
    (({ s with byp := s.byp.map BypSlot.finish } : State).slotView l).result = (s.slotView l).result ∧
      (({ s with byp := s.byp.map BypSlot.finish } : State).slotView l).misPred = (s.slotView l).misPred ∧
      ((({ s with byp := s.byp.map BypSlot.finish } : State).slotView l).done = true →
        (s.slotView l).done = true ∨ ∃ j, l = .bypass j) := by
  cases l with
  | timed c j => exact ⟨rfl, rfl, .inl⟩
  | bypass j =>
    have hj : ({ s with byp := s.byp.map BypSlot.finish } : State).bypSlot j = (s.bypSlot j).finish :=
      getD_map rfl s.byp j
    refine ⟨?_, rfl, fun _ => .inr ⟨j, rfl⟩⟩
    simp only [State.slotView, hj, BypSlot.finish]
    split_ifs <;> rfl

namespace State.Sound

variable {s t : State} (h : s.Sound)

include h

theorem of_countLane {c : UnitClass} {j : Nat} (hx : countLane c j s = .next t) (ht : t.fault = .noFault) :
    t.Sound := by
  unfold countLane at hx
  split_ifs at hx with hl
  · obtain ⟨hb, hd⟩ : (s.lane c j).busy = true ∧ (s.lane c j).done = false := by simpa using hl
    obtain ⟨i, hi, hx⟩ := visit_unfaulted hx ht
    have hs := h.atPhase (.complete c j)
    have hb' : ((s.atPhase (.complete c j)).lane c j).busy = true := hb
    have hd' : ((s.atPhase (.complete c j)).lane c j).done = false := hd
    rw [exec_at_complete rfl] at hx
    by_cases htt : ((s.atPhase (.complete c j)).lane c j).ttl - 1 = 0
    · rw [State.countDown_last hb' hd' htt] at hx
      obtain ⟨v, m, τ, rfl, hv⟩ := computes_unfaulted hb' (Host.Outcome.next.inj hx) ht
      refine (hs.setLane (.finish v m hb' hd' htt) hb' rfl (.inr fun i' a hi' ha => ?_)).withTurn τ
      cases hi.symm.trans hi'
      exact hs.computed hb' hi hv ha
    · rw [State.countDown_more hb' hd' htt] at hx
      cases hx
      exact hs.setLane (.count hb' hd' htt) hb' rfl (.inl ⟨rfl, rfl, rfl⟩)
  · cases hx
    exact h

theorem bypassDone : State.Sound { s with byp := s.byp.map BypSlot.finish } := by
  refine h.units .bypassDone h.fault rfl rfl fun l hl => ?_
  obtain ⟨hb, hrs⟩ := s.slotView_bypassDone l
  obtain ⟨hr, hm, hd⟩ := s.slotView_bypassDone_words l
  exact h.unit_of_busy .bypassDone (hb ▸ hl) hrs hr hm hd

theorem of_countPhase (hx : countPhase s = .next t) (ht : t.fault = .noFault) : t.Sound := by
  obtain ⟨u, hu, huf, hx⟩ := andThen_unfaulted hx ht
  have hs : u.Sound := by
    refine forEach_unfaulted (P := State.Sound) (fun c _ v w hv hx hw => ?_) _ u (h.withTurn _) hu huf
    exact forEach_unfaulted (P := State.Sound) (fun j _ _ _ hv => hv.of_countLane) _ w hv hx hw
  unfold finishCompletions at hx
  dsimp only at hx
  split_ifs at hx <;> cases hx
  · cases ht
  · exact hs.bypassDone

end State.Sound

/-- The phases from W to X3 keep a sound state sound (R180). -/
theorem State.Sound.of_execution {s t : State} (h : s.Sound)
    (hx : andThen (andThen (andThen (writebackPhase s) addressPhase) dispatchPhase) countPhase = .next t)
    (ht : t.fault = .noFault) : t.Sound := by
  obtain ⟨w, hw, hwf, hx3⟩ := andThen_unfaulted hx ht
  obtain ⟨v, hv, hvf, hx2⟩ := andThen_unfaulted hw hwf
  obtain ⟨u, hu, huf, hx1⟩ := andThen_unfaulted hv hvf
  exact ((((h.of_writebackPhase hu huf).of_addressPhase hx1 hvf).of_dispatchPhase hx2 hwf)).of_countPhase hx3 ht

end Sys2Proof.Machine
end

section
/-! PROOFS. The issue stage (40:R103 to R114): the record issued is the one the sequential machine fetches, and its
operands are the registers on the path. -/

namespace Sys2Proof.Machine

/-! ## Fetch -/

/-- The instruction of a fetched record that passes the check is the one the sequential machine fetches (R105, R106). -/
theorem State.archFetch_pc {s : State} {w : BitVec 96} (hw : s.fetch = some w) (hc : (unpack w).check s.pc = none) :
    archFetch s.cfg s.prog s.pc = (unpack w).instr? := by
  unfold State.fetch at hw
  dsimp only at hw
  split_ifs at hw with hd
  rw [archFetch, if_neg hd, hw]
  simp only [decode, hc]
  cases (unpack w).instr? <;> rfl

theorem Record.pc_of_check {r : Record} {pc : Word} (h : r.check pc = none) : r.pc = pc := by
  unfold Record.check at h
  split at h
  · cases h
  · split_ifs at h with hx
    simp only [Bool.and_eq_true] at hx
    exact of_decide_eq_true hx.2

/-- One pass of the issue loop that raises no fault allocates nothing, or the record fetched at `pc` (R103 to R113). -/
theorem issueOne_unfaulted {s t : State} (h : issueOne s = .next t) (ht : t.fault = .noFault) :
    (∃ τ, t = s.withTurn τ) ∨
    ∃ τ i c k w, s.fetch = some w ∧ (unpack w).check s.pc = none ∧ (unpack w).instr? = some i ∧
      classOf? i = some c ∧ s.robFull = false ∧ s.freeEntry c.pool = some k ∧
      t = (s.withTurn τ).allocated i c k (unpack w) := by
  unfold issueOne at h
  split_ifs at h with hfull
  · cases h
    exact .inl ⟨_, rfl⟩
  split at h
  · cases h
    cases ht
  next w hw =>
    split at h
    next e _ =>
      cases h
      exact absurd ht (decodeFault_ne e).1
    next hchk =>
      obtain ⟨i, hi, h⟩ := visit_unfaulted h ht
      rw [exec_at_issue rfl] at h
      cases hc : classOf? i <;> rw [hc] at h <;> cases h
      · exact .inl ⟨_, rfl⟩
      next c =>
        dsimp only
        obtain ⟨hx, -⟩ | ⟨k, hr, hk, hx⟩ := (s.atPhase (.issue (unpack w))).issueInto_cases c.pool
          ⟨dest? i, source1? i, source2? i⟩ (isBranch i) (unpack w)
        · rw [hx]
          exact .inl ⟨_, rfl⟩
        · exact .inr ⟨_, i, c, k, w, hw, hchk, hi, hc, hr, hk, hx⟩

/-! ## Allocation -/

theorem State.tagAt_mem_liveTags {s : State} {j : Nat} (hj : j < s.rob.count) :
    (s.rob.head + j) % s.cfg.robSize ∈ s.liveTags :=
  List.mem_map.2 ⟨j, List.mem_range.2 hj, rfl⟩

/-- The next record lies behind those in flight (R112). -/
theorem State.archHead_pc_count (s : State) : s.archHead.pc + 4 * BitVec.ofNat 32 s.rob.count = s.pc :=
  BitVec.sub_add_cancel ..

section allocated

variable (s : State) (i : Instr) (c : UnitClass) (k : Nat) (r : Record)

theorem State.allocated_committed : (s.allocated i c k r).prog = s.prog ∧ (s.allocated i c k r).mem = s.mem ∧
    (s.allocated i c k r).committed = s.committed := by
  unfold State.allocated State.renameDst
  cases dest? i <;> simp

theorem State.allocated_archHead : (s.allocated i c k r).archHead = s.archHead := by
  have ha := s.allocated_advanced i c k r
  have hreg (q : RegName) : ((s.allocated i c k r).reg q).value = (s.reg q).value := by
    rw [State.reg_allocated]
    split_ifs <;> rfl
  have hpc : s.pc + 4 * BitVec.ofNat 32 1 - 4 * BitVec.ofNat 32 (s.rob.count + 1) =
      s.pc - 4 * BitVec.ofNat 32 s.rob.count := by
    rw [BitVec.ofNat_add]
    bv_omega
  simp only [State.archHead, State.arch, hreg, (s.allocated_committed i c k r).2.1, ha.pc, ha.count, hpc]

end allocated

namespace State.Sound

variable {s t : State} (h : s.Sound) {i : Instr} {c : UnitClass} {k : Nat} {r : Record} (hr : s.robFull = false)

include h hr

/-- The slots of the ages before the new instruction's stay; its own is the tail's. -/
theorem slotAtAge_allocated {j : Nat} (hj : j < s.rob.count) : (s.allocated i c k r).slotAtAge j = s.slotAtAge j := by
  obtain ⟨hcfg, hhead, -⟩ := s.allocated_fields i c k r
  rw [State.slotAtAge, hcfg, hhead,
    State.allocated_slot_of_mem h.fit hr h.regs.1 (State.tagAt_mem_liveTags hj), State.slotAtAge]

omit hr in
theorem slotAtAge_allocated_new : (s.allocated i c k r).slotAtAge s.rob.count =
    { live := true, instr := r, ready := false, value := 0, addr := 0, addrKnown := false, misPred := false,
      stctr := none, stage := .issue, ts := { (s.slot s.rob.tail).ts with issue := s.now } } := by
  obtain ⟨hcfg, hhead, -⟩ := s.allocated_fields i c k r
  rw [State.slotAtAge, hcfg, hhead, ← h.regs.1.1, State.allocated_slot_tail h.fit]

theorem allocated_carries : s.Carries (s.allocated i c k r) 0 where
  cfg := (s.allocated_fields i c k r).1
  prog := (s.allocated_committed i c k r).1
  head := congrArg some (s.allocated_archHead i c k r).symm
  live u hu _ := ⟨(State.allocated_mem_liveTags h.fit hr h.regs.1).2 (.inl hu), s.allocated_age i c k r u⟩
  instr _ hj := congrArg RobSlot.instr (h.slotAtAge_allocated hr hj)

omit hr in
/-- The word a register has on the path after every instruction in flight, or the tag of its producer (R100, R101). -/
theorem rename_flow (q : RegName) : s.OperandFlow s.rob.count (some q) (s.rename q) := by
  unfold State.rename
  dsimp only
  cases hb : (s.reg q).busy
  · refine ⟨fun _ a ha => ?_, nofun⟩
    exact (pathFrom_reg (Nat.zero_le _) s.pathAt_zero (fun j _ => h.flow.idle q hb j) ha).symm
  obtain ⟨hlive, hw, hyoung⟩ := (State.regTagsOk_iff s).1 h.regs.2 q hb
  have hlt := State.age_lt h.fit hlive
  have hp : s.Producer s.rob.count q (s.reg q).tag := by
    refine ⟨hlive, hlt, hw, fun j hj hjn hd => ?_⟩
    have hage := State.age_tag h.fit (Nat.lt_of_lt_of_le hjn h.fit.count)
    have hle := hyoung _ (State.tagAt_mem_liveTags hjn) hd
    omega
  simp only [Bool.true_eq_false, if_false]
  split_ifs with hready
  · refine ⟨fun _ a ha => (hp.value h.fit (m := (s.slot (s.reg q).tag).misPred) (fun i b hi hb => ?_) ha).symm, nofun⟩
    have hslot := h.flow.slot _ hlt
    rw [State.slotAtAge_age h.fit hlive] at hslot
    exact hslot.value i b hi hb hready
  · exact ⟨nofun, fun _ => ⟨q, rfl, hp, by simpa using hready⟩⟩

/-- The new slot is no busy register's, so renaming reads the ROB as it was (R100, R109). -/
theorem rename_allocRob (r : Record) (q : RegName) : (s.allocRob r).rename q = s.rename q := by
  unfold State.rename
  rw [State.reg_allocRob]
  dsimp only
  cases hb : (s.reg q).busy
  · rfl
  have hne : (s.reg q).tag ≠ s.rob.tail := fun he =>
    State.tail_not_mem_liveTags h.fit hr h.regs.1 (he ▸ ((State.regTagsOk_iff s).1 h.regs.2 q hb).1)
  have hslot : (s.allocRob r).slot (s.reg q).tag = s.slot (s.reg q).tag :=
    (getD_set ..).trans (if_neg fun hx => hne hx.1)
  rw [hslot]

theorem source_allocRob (r : Record) (x : Option RegName) :
    s.OperandFlow s.rob.count x ((s.allocRob r).source x) := by
  cases x with
  | none => exact ⟨fun _ _ _ => rfl, nofun⟩
  | some q =>
    rw [State.source, h.rename_allocRob hr]
    exact h.rename_flow q

variable (hk : s.freeEntry c.pool = some k)

include hk

/-- The entry of the new instruction (R110). -/
theorem entry_allocated (hi : r.instr? = some i) :
    (s.allocated i c k r).EntryFlow ((s.allocated i c k r).entry ⟨c.pool, k⟩) := by
  have hcarry := h.allocated_carries hr (i := i) (c := c) (k := k) (r := r)
  have hfit : (s.allocated i c k r).Fit := h.fit.allocated hr
  have hage : (s.allocated i c k r).age s.rob.tail = s.rob.count :=
    (s.allocated_age i c k r _).trans (State.age_tail h.fit hr h.regs.1)
  have hop (x : Option RegName) : (s.allocated i c k r).OperandFlow s.rob.count x ((s.allocRob r).source x) :=
    (h.source_allocRob hr r x).keep hcarry h.fit hfit le_rfl fun _ hl hn =>
      ⟨Nat.zero_le _, by rwa [State.allocated_slot_of_mem h.fit hr h.regs.1 hl]⟩
  rw [State.entry_allocated_new hk]
  refine ⟨fun i' hi' => ?_, fun i' hi' => ?_, nofun, nofun, nofun, nofun⟩
  all_goals
    cases hi.symm.trans hi'
    rw [hage]
    exact hop _

theorem allocated (hi : r.instr? = some i) (hc : classOf? i = some c) (hf : archFetch s.cfg s.prog s.pc = r.instr?)
    (hpc : r.pc = s.pc) : (s.allocated i c k r).Sound := by
  have hcarry := h.allocated_carries hr (i := i) (c := c) (k := k) (r := r)
  have hfit : (s.allocated i c k r).Fit := h.fit.allocated hr
  have hcount := (s.allocated_advanced i c k r).count
  have hnew := h.slotAtAge_allocated_new (i := i) (c := c) (k := k) (r := r)
  have hcode : (s.allocated i c k r).code s.rob.count = r.instr? := congrArg (fun x : RobSlot => x.instr.instr?) hnew
  have hcases {j : Nat} (hj : j < (s.allocated i c k r).rob.count) : j < s.rob.count ∨ j = s.rob.count := by omega
  refine ⟨(s.allocated_fault i c k r).trans h.fault, hfit, State.allocated_regsOk h.fit hr h.regs hi,
    h.mid.allocated h.fit hr hk hi hc, fun j hj => ?_, fun q hb j hj => ?_, fun j hj => ?_, fun q hq => ?_,
    fun l hl => ?_⟩
  · obtain hj | rfl := hcases hj
    · exact (h.flow.fetched j hj).keep hcarry hj
    · refine ⟨?_, ?_⟩ <;> rw [s.allocated_archHead i c k r, s.archHead_pc_count]
      · rw [hcarry.cfg, hcarry.prog, hcode, hf]
      · rw [hnew]
        exact hpc
  · rw [State.reg_allocated] at hb
    split_ifs at hb with hd
    obtain hj | rfl := hcases hj
    · rw [hcarry.code hj]
      exact h.flow.idle q hb j hj
    · rwa [hcode, hi]
  · obtain hj | rfl := hcases hj
    · rw [h.slotAtAge_allocated hr hj, hcarry.cfg, hcarry.path hj.le]
      exact h.flow.slot j hj
    · rw [hnew]
      exact ⟨nofun, nofun, nofun⟩
  · by_cases hqn : q = ⟨c.pool, k⟩
    · exact hqn ▸ h.entry_allocated hr hk hi
    · rw [State.entry_allocated_other hqn] at hq ⊢
      have hlive := (h.placed hq).live
      refine (h.flow.entry q hq).keep hcarry h.fit hfit hlive (Nat.zero_le _) (fun u hu hn => ⟨Nat.zero_le _, ?_⟩) ?_
      all_goals rw [State.allocated_slot_of_mem h.fit hr h.regs.1 ‹_›]
      · exact hn
      · exact id
  · obtain ⟨-, -, hlanes, hbyp⟩ := s.allocated_fields i c k r
    rw [State.slotView_congr hlanes hbyp] at hl ⊢
    have hbusy := (h.serves hl).busy
    have hlive := (h.placed hbusy).live
    rw [State.entry_allocated_other (State.ne_of_busy hk hbusy)]
    exact (h.flow.unit l hl).keep hcarry (State.age_lt h.fit hlive) hlive (Nat.zero_le _) rfl rfl rfl

end State.Sound

theorem State.Sound.of_issueOne {s t : State} (h : s.Sound) (hx : issueOne s = .next t) (ht : t.fault = .noFault) :
    t.Sound := by
  obtain ⟨τ, rfl⟩ | ⟨τ, i, c, k, w, hw, hchk, hi, hc, hr, hk, rfl⟩ := issueOne_unfaulted hx ht
  · exact h.withTurn τ
  · exact (h.withTurn τ).allocated hr hk hi hc (State.archFetch_pc hw hchk) (Record.pc_of_check hchk)

theorem State.Sound.of_issueLoop (n : Nat) :
    ∀ s t : State, s.Sound → issueLoop n s = .next t → t.fault = .noFault → t.Sound := by
  induction n with
  | zero => rintro s t h ⟨⟩ -; exact h
  | succ n ih =>
    intro s t h hx ht
    obtain ⟨u, hu, huf, hx⟩ := andThen_unfaulted hx ht
    have hs := h.of_issueOne hu huf
    split_ifs at hx
    · cases hx
      exact hs
    · exact ih u t hs hx ht

theorem State.Sound.of_issuePhase {s t : State} (h : s.Sound) (hx : issuePhase s = .next t) (ht : t.fault = .noFault) :
    t.Sound := State.Sound.of_issueLoop _ _ t (h.withTurn _) hx ht

end Sys2Proof.Machine
end

section
/-! PROOFS. The commit stage (43:R160 to R170): what leaves the head is one instruction of the sequential machine, and
the words of those that stay are those of the rest of the path. -/

namespace Sys2Proof.Machine

/-- A block that has not faulted, between cycles, with every invariant and every word in flight in order. -/
structure State.Resting (s : State) : Prop where
  fault : s.fault = .noFault
  fit : s.Fit
  regs : s.RegsOk
  tables : s.InFlightOk
  flow : s.FlowOk

theorem State.Resting.sound {s : State} (h : s.Resting) : s.Sound :=
  ⟨h.fault, h.fit, h.regs, h.tables.midCycleOk h.fit, h.flow⟩

/-- `t` has committed what `s` has, or one instruction more, executed by the sequential machine (R71, R342). -/
def State.Progress (s t : State) : Prop :=
  (t.committed = s.committed ∧ t.archHead = s.archHead) ∨
    (t.committed = s.committed + 1 ∧ ∃ i, archFetch s.cfg s.prog s.archHead.pc = some i ∧
      archExec s.cfg i s.archHead = some t.archHead)

/-! ## The head -/

/-- What C does to a state before it takes the head: the ring, the slots' words, the entries and the units stay. -/
structure State.HeadFrame (s u : State) : Prop extends s.SameRing u where
  frame : s.CommitFrame u
  words : ∀ v, (s.slot v).SameWords (u.slot v)
  prog : u.prog = s.prog
  pc : u.pc = s.pc
  committed : u.committed = s.committed

namespace State.HeadFrame

theorem trans {s t u : State} (h : s.HeadFrame t) (h' : t.HeadFrame u) : s.HeadFrame u :=
  ⟨h.toSameRing.trans h'.toSameRing, h.frame.trans h'.frame, fun v => (h.words v).trans (h'.words v),
    h'.prog.trans h.prog, h'.pc.trans h.pc, h'.committed.trans h.committed⟩

theorem stampCommit (s : State) : s.HeadFrame s.stampCommit := by
  refine ⟨s.stampCommit_sameRing, .stampCommit s, fun v => ?_, s.stampCommit_sameSetup.2,
    s.stampCommit_sameFetch.pc, ?_⟩
  all_goals obtain h | h := s.stampCommit_cases <;> rw [h]
  · exact .refl _
  · refine s.setSlot_sameWords _ ?_ v
    exact ⟨rfl, rfl, rfl, rfl, rfl, rfl⟩
  · rfl

theorem storeCountdown (s : State) : s.HeadFrame s.storeCountdown :=
  ⟨s.storeCountdown_sameRing, .storeCountdown s, s.setSlot_sameWords s.rob.head
    (x := { s.headSlot with stctr := some (s.headSlot.stctr.getD s.cfg.lat.memory - 1) })
    ⟨rfl, rfl, rfl, rfl, rfl, rfl⟩, rfl, rfl, rfl⟩

theorem commitReg (s : State) (dst : Option RegName) : s.HeadFrame (s.commitReg dst) := by
  refine ⟨s.commitReg_sameRing dst, .commitReg s dst, fun v => ?_, (s.commitReg_sameSetup dst).2,
    (s.commitReg_sameFetch dst).pc, ?_⟩ <;> cases dst <;> simp [State.commitReg, RobSlot.SameWords.refl]

theorem storeWritten (s : State) (m : Memory) : s.HeadFrame { s with mem := m, memBlock := false } :=
  ⟨.ofRob rfl rfl, .ofRing (.ofRob rfl rfl) rfl rfl rfl fun _ => rfl, fun _ => .refl _, rfl, rfl, rfl⟩

variable {s u : State} (h : s.HeadFrame u)

include h

theorem headSlot : s.headSlot.SameWords u.headSlot := by
  rw [State.headSlot, State.headSlot, h.head]
  exact h.words _

theorem headReady (hr : s.headReady = true) : u.rob.count ≠ 0 ∧ u.headSlot.ready = true :=
  h.toSameRing.headReady (fun v => (h.words v).ready) hr

/-- The committed state that the next step starts from once the head is taken. -/
theorem archHead_pop (hr : s.headReady = true) :
    u.popAndCount.archHead = ⟨fun r => (u.reg r).value, s.archHead.pc + 4, u.mem⟩ := by
  have hc := (h.headReady hr).1
  have hpc : u.pc - 4 * BitVec.ofNat 32 (u.rob.count - 1) = s.pc - 4 * BitVec.ofNat 32 s.rob.count + 4 := by
    obtain ⟨n, hn⟩ := Nat.exists_eq_succ_of_ne_zero hc
    rw [h.pc, ← h.count, hn, Nat.succ_sub_one, Nat.succ_eq_add_one, BitVec.ofNat_add]
    bv_omega
  have hreg : (fun r => (u.popAndCount.reg r).value) = fun r => (u.reg r).value := by
    funext r
    rw [State.popAndCount_reg hc]
  rw [State.archHead, State.arch, hreg, State.popAndCount_of_ne hc]
  exact congrArg (fun pc => Arch.mk _ pc _) hpc

end State.HeadFrame

/-- The oldest instruction in flight, ready to commit, with its result (R160). -/
structure State.HeadFlow (s : State) (i : Instr) : Prop where
  count : 0 < s.rob.count
  code : s.code 0 = some i
  fetch : archFetch s.cfg s.prog s.archHead.pc = some i
  flow : s.headSlot.Flow s.cfg (some s.archHead)
  yields : Yields s.cfg i s.archHead s.headSlot.value s.headSlot.misPred

theorem State.slotAtAge_zero {s : State} (hs : s.Fit) : s.slotAtAge 0 = s.headSlot := by
  rw [State.slotAtAge, Nat.add_zero, Nat.mod_eq_of_lt hs.head, State.headSlot]

theorem State.Resting.headFlow {s : State} (h : s.Resting) (hr : s.headReady = true) {i : Instr}
    (hi : s.headSlot.instr.instr? = some i) : s.HeadFlow i := by
  have hc := Nat.pos_of_ne_zero (State.count_ne_zero_of_headReady hr)
  have hslot := State.slotAtAge_zero h.fit
  have hcode : s.code 0 = some i := by rw [State.code, hslot, hi]
  have hflow := h.flow.slot 0 hc
  rw [hslot, State.pathAt_zero] at hflow
  have hready : s.headSlot.ready = true := by simpa [State.headReady, hc.ne'] using hr
  have hfetch := (h.flow.fetched 0 hc).code
  rw [hcode, BitVec.mul_zero, BitVec.add_zero] at hfetch
  exact ⟨hc, hcode, hfetch, hflow, hflow.value i _ hi rfl hready⟩

/-! ## What stays in flight -/

/-- `t` is `s` after its `k` oldest instructions have left: those that stay keep their words, and no register still
waits for one that left. -/
structure State.Retires (s t : State) (k : Nat) : Prop extends s.Carries t k where
  frame : s.CommitFrame t
  count : t.rob.count + k = s.rob.count
  words : ∀ j < t.rob.count, (s.slotAtAge (j + k)).SameWords (t.slotAtAge j)
  pending : ∀ u ∈ s.liveTags, (s.slot u).ready = false → k ≤ s.age u
  idle : ∀ r, (t.reg r).busy = false → (s.reg r).busy = true → s.age (s.reg r).tag < k

section retires

variable {s t : State} {k : Nat} (h : s.Resting) (hr : s.Retires t k)

include h hr

/-- A register that no instruction in flight is to write has none (R100). -/
theorem State.Retires.idle_code (r : RegName) (hb : (t.reg r).busy = false) {j : Nat} (hj : j < t.rob.count) :
    (t.code j).bind dest? ≠ some r := by
  have hjs : j + k < s.rob.count := by have := hr.count; omega
  rw [hr.code hjs]
  cases hs : (s.reg r).busy
  · exact h.flow.idle r hs _ hjs
  · intro hd
    have hage := State.age_tag h.fit (Nat.lt_of_lt_of_le hjs h.fit.count)
    have hle := ((State.regTagsOk_iff s).1 h.regs.2 r hs).2.2 _ (State.tagAt_mem_liveTags hjs) hd
    have hlt := hr.idle r hb hs
    omega

theorem State.Retires.flowOk (ht : t.Fit) : t.FlowOk := by
  have hcount := hr.count
  have hcfg := hr.toCarries.cfg
  have hplaced {q : RsRef} (hq : (s.entry q).busy = true) := h.sound.placed hq
  have hnot {q : RsRef} (hq : (s.entry q).busy = true) : (s.slot (s.entry q).tagD).ready = false :=
    h.sound.mid.pending q hq (((State.entriesOk_iff h.fit).1 h.tables.2.2.2).2.1 q)
  have hage {q : RsRef} (hq : (s.entry q).busy = true) := hr.pending _ (hplaced hq).live (hnot hq)
  have hentry : t.entry = s.entry := by funext q; simp only [State.entry, hr.frame.rs]
  refine ⟨fun j hj => ?_, fun r hb j hj => hr.idle_code h r hb hj, fun j hj => ?_, fun q hq => ?_, fun l hl => ?_⟩
  · exact (h.flow.fetched (j + k) (by omega)).keep hr.toCarries (by omega)
  · rw [hcfg, hr.path (by omega)]
    exact (hr.words j hj).flow (h.flow.slot (j + k) (by omega))
  · rw [hentry] at hq ⊢
    have hlive := (hplaced hq).live
    refine (h.flow.entry q hq).keep hr.toCarries h.fit ht hlive (hage hq)
      (fun u hu hn => ⟨hr.pending u hu hn, (hr.frame.waiting u hu hn).2.2⟩) fun hk => ?_
    obtain ⟨htlive, hta⟩ := hr.live _ hlive (hage hq)
    have hw := hr.words _ (State.age_lt ht htlive)
    rw [hta, State.slotAtAge_age h.fit hlive, State.slotAtAge_age ht htlive] at hw
    exact hw.addrKnown.trans hk
  · rw [State.slotView_congr hr.frame.lanes hr.frame.byp] at hl ⊢
    have hbusy := (h.sound.serves hl).busy
    have hlive := (hplaced hbusy).live
    rw [hentry]
    exact (h.flow.unit l hl).keep hr.toCarries (State.age_lt h.fit hlive) hlive (hage hbusy) rfl rfl rfl

end retires

section headframe

variable {s u : State} (h : s.HeadFrame u)

include h

/-- Before the head is taken, all stay. -/
theorem State.HeadFrame.retires (hreg : ∀ r, u.reg r = s.reg r) (hm : u.mem = s.mem) : s.Retires u 0 where
  toCarries := (State.SamePath.ofRing h.toSameRing (fun r => by rw [hreg]) hm h.pc).carries h.prog
  frame := h.frame
  count := h.count
  words j _ := by
    rw [h.toSameRing.slotAtAge]
    exact h.words _
  pending _ _ _ := Nat.zero_le _
  idle r hb hb' := by
    rw [hreg, hb'] at hb
    cases hb

/-- A pop takes the oldest (R33): it is ready, and no register is left waiting for it (R162). -/
theorem State.HeadFrame.retires_pop (hs : s.Resting) (hu : u.Fit) (hr : s.headReady = true)
    (hpath : s.pathAt 1 = some u.popAndCount.archHead)
    (hreg : ∀ r, (u.reg r).busy = false → (s.reg r).busy = true → (s.reg r).tag = s.rob.head) :
    s.Retires u.popAndCount 1 := by
  obtain ⟨hc, hready⟩ := h.headReady hr
  have hpop := State.CommitFrame.popAndCount hu hc hready
  have hcount : u.popAndCount.rob.count + 1 = s.rob.count := by
    rw [State.popAndCount_of_ne hc, ← h.count]
    exact Nat.sub_one_add_one hc
  have hage0 {v : Nat} (hv : s.age v ≠ 0) : v ≠ u.rob.head := by
    rintro rfl
    have ha := State.age_tag hs.fit (j := 0) (by have := hs.fit.head; omega)
    rw [Nat.add_zero, Nat.mod_eq_of_lt hs.fit.head, ← h.head] at ha
    exact hv ha
  have hlive : ∀ v ∈ s.liveTags, 1 ≤ s.age v → v ∈ u.popAndCount.liveTags ∧ u.popAndCount.age v + 1 = s.age v := by
    intro v hv hk
    have hn := hage0 (v := v) (by omega)
    have hvu : v ∈ u.liveTags := h.liveTags ▸ hv
    refine ⟨(State.popAndCount_mem_liveTags hu hc).2 ⟨hvu, hn⟩, ?_⟩
    rw [State.popAndCount_age hu hc ((State.mem_liveTags_iff hu).1 hvu).1 hn]
    exact h.age v
  have hwords : ∀ j, j + 1 < s.rob.count → (s.slotAtAge (j + 1)).SameWords (u.popAndCount.slotAtAge j) := by
    intro j hj
    have hmem := State.tagAt_mem_liveTags hj
    have hage := State.age_tag hs.fit (Nat.lt_of_lt_of_le hj hs.fit.count)
    obtain ⟨htl, hta⟩ := hlive _ hmem (by omega)
    have hslot := State.slotAtAge_age hu.popAndCount htl
    rw [show u.popAndCount.age ((s.rob.head + (j + 1)) % s.cfg.robSize) = j by omega,
      State.popAndCount_slot hu hc, if_neg (hage0 (by omega))] at hslot
    rw [hslot]
    exact h.words _
  exact
    { cfg := hpop.cfg.trans h.cfg
      prog := u.popAndCount_sameSetup.2.trans h.prog
      head := hpath
      live := hlive
      instr := fun j hj => (hwords j hj).instr
      frame := h.frame.trans hpop
      count := hcount
      words := fun j hj => hwords j (by omega)
      pending := fun v hv hn => by
        have hnot := (h.frame.trans hpop).waiting v hv hn
        have hne := ((State.popAndCount_mem_liveTags hu hc).1 hnot.1).2
        refine Nat.pos_of_ne_zero fun h0 => hne ?_
        have := State.tag_age hs.fit ((State.mem_liveTags_iff hs.fit).1 hv).1
        rw [h0, Nat.add_zero, Nat.mod_eq_of_lt hs.fit.head] at this
        exact this.symm.trans h.head.symm
      idle := fun r hb hb' => by
        rw [State.popAndCount_reg hc] at hb
        have ha := State.age_tag hs.fit (j := 0) (by have := hs.fit.head; omega)
        rw [Nat.add_zero, Nat.mod_eq_of_lt hs.fit.head] at ha
        rw [hreg r hb hb', ha]
        exact Nat.one_pos }

end headframe

end Sys2Proof.Machine
end

section
/-! PROOFS. The turn of the head in C, case by case: a result, a store, a branch, or none of them (43:R160 to R164). -/

namespace Sys2Proof.Machine

/-- With nothing in flight there is nothing to say. -/
theorem State.FlowOk.of_empty {t : State} (hc : t.rob.count = 0) (he : ∀ q, (t.entry q).busy = false)
    (hu : ∀ l, (t.slotView l).busy = false) : t.FlowOk where
  fetched j hj := absurd (hc ▸ hj) (Nat.not_lt_zero j)
  idle _ _ j hj := absurd (hc ▸ hj) (Nat.not_lt_zero j)
  slot j hj := absurd (hc ▸ hj) (Nat.not_lt_zero j)
  entry q hq := absurd ((he q).symm.trans hq) nofun
  unit l hl := absurd ((hu l).symm.trans hl) nofun

theorem State.HeadFlow.pathAt_one {s : State} {i : Instr} (h : s.HeadFlow i) {b : Arch}
    (hx : archExec s.cfg i s.archHead = some b) (hpc : b.pc = s.archHead.pc + 4) : s.pathAt 1 = some b := by
  have hstep : pathStep s.cfg i s.archHead = some b := by
    rw [pathStep, hx, ← hpc]
    rfl
  rw [State.pathAt, pathFrom, pathFrom, h.code]
  exact hstep

theorem State.stampCommit_mem (s : State) : s.stampCommit.mem = s.mem := by
  obtain h | h := s.stampCommit_cases <;> rw [h]
  exact State.setSlot_mem ..

theorem State.commitReg_mem (s : State) (dst : Option RegName) : (s.commitReg dst).mem = s.mem := by
  cases dst <;> simp [State.commitReg]

theorem State.squash_archHead (s : State) (w : Word) : (s.squash w).archHead = { s.archHead with pc := w } := by
  simp only [State.archHead, State.arch, State.reg_squash, State.squash_pc, State.squash_rob, State.squash_mem]
  exact congrArg (fun pc => Arch.mk _ pc _) (BitVec.sub_zero w)

theorem State.squash_flowOk (s : State) (w : Word) : (s.squash w).FlowOk := by
  refine .of_empty (by rw [State.squash_rob]) (fun q => by rw [State.entry_squash]) fun l => ?_
  cases l with
  | timed c j => exact congrArg Lane.busy (s.lane_squash w c j)
  | bypass j => exact congrArg BypSlot.busy (s.bypSlot_squash w j)

/-- A turn of C in order: the words in flight, and what has been committed. -/
def State.Commits (s t : State) : Prop := t.FlowOk ∧ s.Progress t

section commit

variable {s u : State} (h : s.Resting)

include h

theorem State.HeadFrame.commits (hf : s.HeadFrame u) (hu : u.Fit) (hreg : ∀ r, u.reg r = s.reg r)
    (hm : u.mem = s.mem) : s.Commits u :=
  have hr := hf.retires hreg hm
  ⟨hr.flowOk h hu, .inl ⟨hf.committed, Option.some.inj hr.head.symm⟩⟩

/-- A pop commits what the sequential machine executes. -/
theorem State.HeadFrame.commits_pop (hf : s.HeadFrame u) (hu : u.Fit) (hr : s.headReady = true) {i : Instr}
    (hi : s.HeadFlow i)
    (hx : archExec s.cfg i s.archHead = some ⟨fun r => (u.reg r).value, s.archHead.pc + 4, u.mem⟩)
    (hreg : ∀ r, (u.reg r).busy = false → (s.reg r).busy = true → (s.reg r).tag = s.rob.head) :
    s.Commits u.popAndCount := by
  have hpop := hf.archHead_pop hr
  have hret := hf.retires_pop h hu hr (hpop ▸ hi.pathAt_one hx rfl) hreg
  refine ⟨hret.flowOk h hu.popAndCount, .inr ⟨?_, i, hi.fetch, hpop ▸ hx⟩⟩
  rw [State.popAndCount_of_ne (hf.headReady hr).1]
  exact congrArg (· + 1) hf.committed

theorem State.Resting.commits_self : s.Commits s := ⟨h.flow, .inl ⟨rfl, rfl⟩⟩

/-- A result is written to its register, and no register waits for it any more (R162). -/
theorem State.Resting.commits_commitResult {i : Instr} (hi : s.headSlot.instr.instr? = some i)
    (hs : isStore i = false) (hb : isBranch i = false) : s.Commits (s.commitResult (dest? i)) := by
  cases hr : s.headReady
  · rw [State.commitResult_stall hr]
    exact h.commits_self
  have hhead := h.headFlow hr hi
  have hstamp := State.HeadFrame.stampCommit s
  have hreg (r : RegName) : (s.stampCommit.commitReg (dest? i)).reg r =
      if dest? i = some r then
        { s.reg r with
          value := s.headSlot.value
          busy := if (s.reg r).busy = true ∧ (s.reg r).tag = s.rob.head then false else (s.reg r).busy }
      else s.reg r := by
    rw [State.reg_commitReg, State.reg_stampCommit, hstamp.headSlot.value, hstamp.head]
  rw [State.commitResult_ready hr]
  refine (hstamp.trans (.commitReg _ _)).commits_pop h (h.fit.stampCommit.commitReg _) hr hhead ?_ fun r hn hy => ?_
  · rw [(yields_other hs hb).1 hhead.yields, State.commitReg_mem, State.stampCommit_mem]
    refine congrArg (fun f => some (Arch.mk f _ _)) (funext fun r => ?_)
    rw [hreg]
    split_ifs <;> rfl
  · rw [hreg] at hn
    split_ifs at hn with hd hx
    · exact hx.2
    · cases hn.symm.trans hy
    · cases hn.symm.trans hy

/-- A branch not taken is popped; one taken leaves nothing in flight (R163, R170). -/
theorem State.Resting.commits_commitBranch {i : Instr} (hi : s.headSlot.instr.instr? = some i)
    (hb : isBranch i = true) : s.Commits s.commitBranch := by
  cases hr : s.headReady
  · rw [State.commitBranch_stall hr]
    exact h.commits_self
  have hhead := h.headFlow hr hi
  have hstamp := State.HeadFrame.stampCommit s
  obtain ⟨hv, hm⟩ := (yields_branch hb).1 hhead.yields
  have hx := archExec_branch (cfg := s.cfg) hb s.archHead
  rw [← hm, ← hv] at hx
  unfold State.commitBranch
  simp only [hr, if_true, hstamp.headSlot.misPred, hstamp.headSlot.value]
  split_ifs with htaken
  · refine ⟨State.squash_flowOk _ _, .inr ⟨?_, i, hhead.fetch, ?_⟩⟩
    · rw [State.squash_committed]
      exact congrArg (· + 1) hstamp.committed
    · rw [hx, if_pos htaken, State.squash_archHead]
      have harch := (hstamp.retires s.reg_stampCommit s.stampCommit_mem).head
      exact congrArg (fun a : Arch => some { a with pc := s.headSlot.value }) (Option.some.inj harch)
  · refine hstamp.commits_pop h h.fit.stampCommit hr hhead ?_ fun r hn hy => ?_
    · rw [hx, if_neg htaken, State.stampCommit_mem]
      exact congrArg (fun f => some (Arch.mk f _ _)) (funext fun r => by rw [State.reg_stampCommit]; rfl)
    · rw [State.reg_stampCommit, hy] at hn
      cases hn

/-- A store counts down, and at the end writes its word (R164). -/
theorem State.Resting.commits_commitStore {i : Instr} (hi : s.headSlot.instr.instr? = some i)
    (hs : isStore i = true) (hf : s.commitStore.fault = .noFault) : s.Commits s.commitStore := by
  cases hr : s.headReady
  · rw [State.commitStore_stall hr]
    exact h.commits_self
  have hhead := h.headFlow hr hi
  have hframe := (State.HeadFrame.stampCommit s).trans (.storeCountdown _)
  have hfit := h.fit.stampCommit.storeCountdown
  have hreg : ∀ r, s.stampCommit.storeCountdown.reg r = s.reg r := s.reg_stampCommit
  have hmem : s.stampCommit.storeCountdown.mem = s.mem := s.stampCommit_mem
  rw [State.commitStore_ready hr] at hf ⊢
  generalize s.stampCommit.storeCountdown = u at hf hframe hfit hreg hmem ⊢
  split_ifs at hf ⊢
  · exact hframe.commits h hfit hreg hmem
  obtain ⟨f, ha, e⟩ | ⟨ha, e⟩ := u.storeWrite_cases <;> rw [e] at hf ⊢
  · exact absurd hf (accessFault_ne ha).1
  have hknown := hhead.flow.known i hi hs (hframe.headSlot.ready.symm.trans (hframe.headReady hr).2)
  have haddr : u.headSlot.addr = s.archHead.address i :=
    hframe.headSlot.addr.trans (hhead.flow.addr i _ hi rfl hknown)
  have hvalue : u.headSlot.value = s.archHead.src (source2? i) :=
    hframe.headSlot.value.trans ((yields_store hs).1 hhead.yields)
  refine (hframe.trans (.storeWritten u _)).commits_pop h (hfit.storeWritten ha _) hr hhead ?_ fun r hn hy => ?_
  · rw [hframe.cfg, haddr] at ha
    rw [archExec_store hs, if_pos ha, haddr, hvalue, hmem]
    exact congrArg (fun f => some (Arch.mk f _ _)) (funext fun r => (congrArg RegEntry.value (hreg r)).symm)
  · cases ((congrArg RegEntry.busy (hreg r)).symm.trans hn).symm.trans hy

end commit

theorem State.Resting.withTurn {s : State} (h : s.Resting) (τ : Turn) : (s.withTurn τ).Resting :=
  ⟨h.fault, h.fit.withTurn τ, h.regs, h.tables, (h.sound.withTurn τ).flow⟩

/-- C (R160): the invariants, and one instruction more or none committed. -/
theorem State.Resting.of_commitPhase {s t : State} (h : s.Resting) (hx : commitPhase s = .next t)
    (ht : t.fault = .noFault) : t.Resting ∧ s.Progress t := by
  suffices s.Commits t by
    obtain ⟨hfit, htables⟩ := commitPhase_inFlightOk ⟨h.fit, h.tables⟩ hx
    exact ⟨⟨ht, hfit, (State.stepKeeps_regsOk.commitPhase ⟨h.fit, h.regs⟩ hx).2, htables, this.1⟩, this.2⟩
  unfold commitPhase at hx
  split_ifs at hx
  · cases hx
    exact h.commits_self
  obtain ⟨i, hi, hx⟩ := visit_unfaulted hx ht
  have hs : (s.atPhase .commit).Resting := h.withTurn _
  change (s.atPhase .commit).Commits t
  cases (exec_at_commit rfl i).symm.trans hx
  have hi' : (s.atPhase .commit).headSlot.instr.instr? = some i := hi
  by_cases he : i = .eop
  · rw [if_pos he]
    exact hs.commits_self
  rw [if_neg he] at ht ⊢
  split_ifs at ht ⊢ with hst hb
  · exact hs.commits_commitStore hi' hst ht
  · exact hs.commits_commitBranch hi' hb
  · exact hs.commits_commitResult hi' (by simpa using hst) (by simpa using hb)

end Sys2Proof.Machine
end

section
/-! PROOFS. The committed state through a whole step, and through a run from the launch (20_memory.md R71,
70_reset_and_hazards.md R342). -/

namespace Sys2Proof.Machine

/-! ## From W to F -/

/-- `t` has committed the same instructions as `s`. -/
structure State.SameCommitted (s t : State) : Prop where
  archHead : t.archHead = s.archHead
  committed : t.committed = s.committed

namespace State.SameCommitted

variable {s t u : State}

theorem trans (h : s.SameCommitted t) (h' : t.SameCommitted u) : s.SameCommitted u :=
  ⟨h'.archHead.trans h.archHead, h'.committed.trans h.committed⟩

theorem ofExec (h : s.ExecFrame t) : s.SameCommitted t := ⟨(State.SamePath.ofExec h).archHead, h.committed⟩

theorem ofIssue (h : IssueOutcome s t) : s.SameCommitted t := by
  cases h with
  | stops => exact ⟨rfl, rfl⟩
  | faults pc addr hf hu => exact ⟨rfl, rfl⟩
  | allocates hi hc hr hk => exact ⟨s.allocated_archHead .., (s.allocated_committed ..).2.2⟩

theorem ofIssuePhase (h : issuePhase s = .next t) : s.SameCommitted t := by
  refine issueLoop_keeps (P := s.SameCommitted) (fun u v hu h => ?_) _ _ t ?_ h
  · obtain ⟨τ, ho⟩ := issueOne_outcome h
    exact hu.trans (.trans (t := u.withTurn τ) ⟨rfl, rfl⟩ (.ofIssue ho))
  · exact ⟨rfl, rfl⟩

end State.SameCommitted

theorem State.Progress.of_sameCommitted {s t u : State} (hp : s.Progress t) (h : t.SameCommitted u) :
    s.Progress u := by
  rw [State.Progress, h.archHead, h.committed]
  exact hp

/-- F takes entries, and no words of those that stay (R181). -/
theorem State.Sound.ended_flowOk {s : State} (h : s.Sound) : s.ended.FlowOk := by
  have hpath : s.SamePath s.ended := .ofRing (.ofRob rfl rfl) (fun _ => rfl) rfl rfl
  have hcarry : s.Carries s.ended 0 := hpath.carries rfl
  have hfit : s.ended.Fit := h.fit.finalize.sameArrays ⟨rfl, rfl, rfl, rfl, rfl, rfl, rfl, rfl, rfl⟩
  refine ⟨fun j hj => (h.flow.fetched j hj).keep hcarry hj, h.flow.idle, h.flow.slot, fun q hq => ?_, fun l hl => ?_⟩
  · rw [State.entry_ended] at hq ⊢
    obtain ⟨hb, hr⟩ := (RsEntry.finalize_busy _).1 hq
    rw [RsEntry.finalize_of_not_remove hr]
    exact (h.flow.entry q hb).keep hcarry h.fit hfit (h.placed hb).live (Nat.zero_le _)
      (fun _ _ hn => ⟨Nat.zero_le _, hn⟩) id
  · have hbusy : (s.slotView l).busy = true := hl
    have hlive := (h.placed (h.serves hbusy).busy).live
    have hentry : s.ended.entry (s.slotView l).rs = s.entry (s.slotView l).rs :=
      (s.entry_ended _).trans (RsEntry.finalize_of_not_remove (h.mid.served l hbusy))
    change s.ended.UnitFlow l (s.slotView l) (s.ended.entry (s.slotView l).rs)
    rw [hentry]
    exact (h.flow.unit l hbusy).keep hcarry (State.age_lt h.fit hlive) hlive (Nat.zero_le _) rfl rfl rfl

/-! ## The step -/

/-- What runs before the issue stage: C, then the execution phases, which commit nothing. -/
theorem State.Resting.of_beforeIssue {s t : State} (h : s.Resting) (hx : beforeIssue s = .next t)
    (ht : t.fault = .noFault) : t.Sound ∧ s.Progress t := by
  obtain ⟨u, hu, hrun⟩ := beforeIssue_run hx
  have hexec : andThen (commitPhase s) (fun u => andThen (andThen (andThen (writebackPhase u) addressPhase)
      dispatchPhase) countPhase) = .next t := by
    simpa only [beforeIssue, andThen_assoc] using hx
  obtain ⟨u', hu', huf, hexec⟩ := andThen_unfaulted hexec ht
  cases hu.symm.trans hu'
  obtain ⟨hrest, hprog⟩ := h.of_commitPhase hu huf
  exact ⟨hrest.sound.of_execution hexec ht, hprog.of_sameCommitted (.ofExec hrun.frame)⟩

/-- A step that raises no fault keeps every word in flight that of the path, and commits one instruction or none. -/
theorem State.Resting.of_step {s t : State} (h : s.Resting) (hx : step s = .next t) (ht : t.fault = .noFault) :
    t.Resting ∧ s.Progress t := by
  have hfit : t.Fit := State.stepKeeps_fit.step h.fit hx
  have hregs := (State.stepKeeps_regsOk.step ⟨h.fit, h.regs⟩ hx).2
  have htables := step_inFlightOk h.fit h.tables h.fault hx ht
  suffices t.FlowOk ∧ s.Progress t from ⟨⟨ht, hfit, hregs, htables, this.1⟩, this.2⟩
  obtain ⟨v, hv, ⟨hn, rfl⟩ | ⟨hvf, hx⟩⟩ := step_phases h.fault hx
  · exact absurd ht hn
  obtain ⟨hsv, hprogress⟩ := (h.withTurn .start).of_beforeIssue hv hvf
  obtain ⟨w, hw, ⟨hn, rfl⟩ | ⟨hwf, rfl⟩⟩ := fromIssue_cases hx
  · exact absurd ht hn
  · exact ⟨(hsv.of_issuePhase hw hwf).ended_flowOk,
      State.Progress.of_sameCommitted hprogress ((State.SameCommitted.ofIssuePhase hw).trans ⟨rfl, rfl⟩)⟩

/-! ## The run -/

/-- `s`, at most `n` steps after the launch, has committed a run of the sequential machine from `a`. -/
structure State.Follows (s : State) (cfg : Config) (prog : List (BitVec 96)) (a : Arch) (n : Nat) : Prop where
  resting : s.Resting
  sameCfg : s.cfg = cfg
  sameProg : s.prog = prog
  committed : s.committed.toNat ≤ n
  run : archRun cfg prog s.committed.toNat a = some s.archHead

theorem State.Follows.step {s t : State} {cfg : Config} {prog : List (BitVec 96)} {a : Arch} {n : Nat}
    (h : s.Follows cfg prog a n) (hn : n + 1 < 2 ^ 64) (hx : step s = .next t) (ht : t.fault = .noFault) :
    t.Follows cfg prog a (n + 1) := by
  obtain ⟨hrest, hprogress⟩ := h.resting.of_step hx ht
  obtain ⟨hcfg, hprog⟩ := configurationNeverChanges s t hx
  have hle := h.committed
  suffices t.committed.toNat ≤ n + 1 ∧ archRun cfg prog t.committed.toNat a = some t.archHead from
    ⟨hrest, hcfg.trans h.sameCfg, hprog.trans h.sameProg, this.1, this.2⟩
  obtain ⟨hc, ha⟩ | ⟨hc, i, hi, ha⟩ := hprogress
  · rw [hc, ha]
    exact ⟨by omega, h.run⟩
  · have hsucc : t.committed.toNat = s.committed.toNat + 1 := by
      rw [hc, BitVec.toNat_add_of_lt (by simpa using by omega)]
      rfl
    rw [h.sameCfg, h.sameProg] at hi
    rw [h.sameCfg] at ha
    rw [hsucc]
    exact ⟨by omega, archRun_succ h.run hi ha⟩

theorem run_succ_eq_next {M : Host.Core} {s t : M.State} {k : Nat} (h : M.run (k + 1) s = .next t) :
    ∃ u, M.step s = .next u ∧ M.run k u = .next t := by
  rw [Host.Core.run] at h
  split at h
  next u hu => exact ⟨u, hu, h⟩
  next => cases h
  next => cases h

/-- A faulted block stays as it is (R301). -/
theorem run_of_faulted {s : State} (hs : s.fault ≠ .noFault) (k : Nat) :
    ∀ {t : State}, Sys2Proof.core.run k s = .next t → t = s := by
  induction k with
  | zero =>
    rintro t ⟨⟩
    rfl
  | succ k ih =>
    intro t h
    obtain ⟨u, hu, h⟩ := run_succ_eq_next h
    have hu := stepBlock_of_step hu
    rw [stepBlock, if_neg hs] at hu
    cases hu
    exact ih h

theorem State.Follows.run_next {cfg : Config} {prog : List (BitVec 96)} {a : Arch} (k : Nat) :
    ∀ {n : Nat} {s t : State}, s.Follows cfg prog a n → n + k < 2 ^ 64 → Sys2Proof.core.run k s = .next t →
      t.fault = .noFault → t.Follows cfg prog a (n + k) := by
  induction k with
  | zero =>
    rintro n s t h - ⟨⟩ -
    exact h
  | succ k ih =>
    intro n s t h hn hx ht
    obtain ⟨u, hu, hx⟩ := run_succ_eq_next hx
    by_cases hf : u.fault = .noFault
    · have hu : u.Follows cfg prog a (n + 1) := h.step (by omega) hu hf
      rw [show n + (k + 1) = n + 1 + k by omega]
      exact ih hu (by omega) hx ht
    · exact absurd (run_of_faulted hf k hx ▸ ht) hf

/-! ## The launch -/

theorem State.launch_resting {cfg : Config} {prog : List (BitVec 96)} (g f : Reg → Word) {m : Memory}
    (h : (State.launch cfg prog g f m).Runnable) : (State.launch cfg prog g f m).Resting := by
  have hs := State.runnable_iff_fit.1 h
  obtain ⟨-, hregs, htables, -⟩ := launchMeetsInvariants cfg prog g f m _ hs.wf hs.loaded hs.memWf hs.memRange rfl
  refine ⟨rfl, hs, hregs, htables, .of_empty rfl (fun q => ?_) (State.launch_slotView cfg prog g f m)⟩
  rw [State.launch_entry]
  rfl

theorem State.launch_archHead (cfg : Config) (prog : List (BitVec 96)) (g f : Reg → Word) (m : Memory) :
    (State.launch cfg prog g f m).archHead = (State.launch cfg prog g f m).arch cfg.base :=
  congrArg (State.arch _) (BitVec.sub_zero _)

/-- Settles O57: every word in flight is that of the path of the sequential machine from the committed state, so what C
takes from the head is one of its steps; the launch has committed none. -/
theorem committedStateIsSequential : Obligations.CommittedStateIsSequential := by
  unfold Obligations.CommittedStateIsSequential
  rintro cfg prog g f m k s t rfl hs hk hx ht
  have hlaunch : (State.launch cfg prog g f m).Follows cfg prog ((State.launch cfg prog g f m).arch cfg.base) 0 :=
    ⟨State.launch_resting g f hs, rfl, rfl, le_rfl, congrArg some (State.launch_archHead cfg prog g f m).symm⟩
  have hfinal := hlaunch.run_next k (by omega) hx ht
  exact ⟨t.archHead, hfinal.run, fun _ => rfl, rfl⟩

end Sys2Proof.Machine
end

section
/-! PROOFS. Encoding (30_encoding.md): reading back a packed record, what the record check and the opcode map ask of a
record, and so which words decode to an instruction and which fault at issue (40:R106). -/

namespace Sys2Proof

open Machine

/-! ## Reading back a packed record (R82) -/

theorem Slot.extractLsb'_bits (x : Slot) :
    x.bits.extractLsb' 0 5 = BitVec.ofFin x.reg ∧ x.bits.extractLsb' 5 1 = BitVec.ofBool x.f ∧
    x.bits.extractLsb' 6 1 = BitVec.ofBool x.v := by
  unfold Slot.bits
  simp (disch := decide) only [BitVec.extractLsb'_append_eq_of_le, BitVec.extractLsb'_append_eq_of_add_le,
    BitVec.extractLsb'_eq_self, Nat.reduceSub, -Nat.reduceAdd, and_self]

theorem extractLsb'_pack (r : Record) :
    (pack r).extractLsb' 0 5 = r.op ∧ (pack r).extractLsb' 5 7 = r.dst.bits ∧
    (pack r).extractLsb' 12 7 = r.src1.bits ∧ (pack r).extractLsb' 19 7 = r.src2.bits ∧
    (pack r).extractLsb' 26 1 = BitVec.ofBool r.isLoad ∧ (pack r).extractLsb' 27 1 = BitVec.ofBool r.isStore ∧
    (pack r).extractLsb' 28 1 = BitVec.ofBool r.isBranch ∧ (pack r).extractLsb' 29 3 = r.reserved ∧
    (pack r).extractLsb' 32 32 = r.imm ∧ (pack r).extractLsb' 64 32 = r.pc := by
  unfold pack Record.ctl
  simp (disch := decide) only [BitVec.extractLsb'_append_eq_of_le, BitVec.extractLsb'_append_eq_of_add_le,
    BitVec.extractLsb'_eq_self, Nat.reduceSub, -Nat.reduceAdd, true_and]
  exact ⟨BitVec.extractLsb'_eq_self, BitVec.extractLsb'_eq_self⟩

theorem flagAt_of_extractLsb' {w : BitVec 96} {n : Nat} {b : Bool} (h : w.extractLsb' n 1 = BitVec.ofBool b) :
    flagAt w n = b := by
  have hbit := congrArg (BitVec.getLsbD · 0) h
  simpa [flagAt] using hbit

theorem slotAt_of_extractLsb' {w : BitVec 96} {n : Nat} {x : Slot} (h : w.extractLsb' n 7 = x.bits) :
    slotAt w n = x := by
  have hsub : ∀ k m, k + m ≤ 7 → w.extractLsb' (n + k) m = x.bits.extractLsb' k m := fun k m hk => by
    rw [← h]
    ext j hj
    simp [Nat.add_assoc, (by omega : k + j < 7)]
  obtain ⟨hreg, hf, hv⟩ := x.extractLsb'_bits
  have hreg' : regAt w n = x.reg := congrArg BitVec.toFin ((hsub 0 5 (by decide)).trans hreg)
  have hf' : flagAt w (n + 5) = x.f := flagAt_of_extractLsb' ((hsub 5 1 (by decide)).trans hf)
  have hv' : flagAt w (n + 6) = x.v := flagAt_of_extractLsb' ((hsub 6 1 (by decide)).trans hv)
  rw [slotAt, hreg', hf', hv']

theorem unpack_pack (r : Record) : unpack (pack r) = r := by
  obtain ⟨hop, hdst, hsrc1, hsrc2, hload, hstore, hbranch, hres, himm, hpc⟩ := extractLsb'_pack r
  rw [unpack, hop, slotAt_of_extractLsb' hdst, slotAt_of_extractLsb' hsrc1, slotAt_of_extractLsb' hsrc2,
    flagAt_of_extractLsb' hload, flagAt_of_extractLsb' hstore, flagAt_of_extractLsb' hbranch, hres, himm, hpc]

/-! ## A slot and the register it names (R83, R91) -/

/-- The bank of a register. -/
def RegName.bank : RegName → Bank
  | .gpr _ => .int
  | .fpr _ => .float

/-- The number of a register in its bank. -/
def RegName.number : RegName → Reg
  | .gpr k => k
  | .fpr k => k

/-- The slot that names a register, or the unused one. -/
def Slot.naming : Option RegName → Slot
  | none => .unused
  | some (.gpr k) => .gpr k
  | some (.fpr k) => .fpr k

theorem Slot.agrees_naming_iff (x : Slot) (q : Option RegName) :
    SlotAgrees x (.naming q) ↔ x.fits (q.map RegName.bank) = true ∧ ∀ n ∈ q, x.reg = n.number := by
  obtain ⟨k, f, v⟩ := x
  match q with
  | none => cases v <;> simp [SlotAgrees, Slot.naming, Slot.unused, Slot.fits]
  | some (.gpr m) =>
    cases v <;> cases f <;> simp [SlotAgrees, Slot.naming, Slot.gpr, Slot.fits, RegName.bank, RegName.number]
  | some (.fpr m) =>
    cases v <;> cases f <;> simp [SlotAgrees, Slot.naming, Slot.fpr, Slot.fits, RegName.bank, RegName.number]

/-! ## The record and the row of an instruction (R83, R86) -/

theorem Instr.record_slots (i : Instr) (pc : Word) :
    (i.record pc).dst = .naming (dest? i) ∧ (i.record pc).src1 = .naming (source1? i) ∧
    (i.record pc).src2 = .naming (source2? i) := by
  cases i <;> exact ⟨rfl, rfl, rfl⟩

/-- The banks of an instruction's registers. -/
def Instr.signature (i : Instr) : Signature :=
  ⟨(dest? i).map RegName.bank, (source1? i).map RegName.bank, (source2? i).map RegName.bank⟩

theorem Instr.opRow?_record (i : Instr) (pc : Word) :
    ∃ row, opRow? (i.record pc).op = some row ∧ row.form.signature = i.signature ∧ row.isLoad = isLoad i ∧
      row.isStore = isStore i ∧ row.isBranch = isBranch i := by
  cases i <;> exact ⟨_, rfl, rfl, rfl, rfl, rfl⟩

theorem Instr.recordSays_record (i : Instr) (pc : Word) : RecordSays (i.record pc) i pc := by
  have hagrees : ∀ x : Slot, SlotAgrees x x := fun _ => ⟨rfl, fun _ => rfl⟩
  refine ⟨rfl, hagrees _, hagrees _, hagrees _, ?_⟩
  cases i <;> exact ⟨rfl, rfl, rfl, rfl, rfl, fun _ => rfl⟩

/-! ## The instruction a record names (R86, R87) -/

/-- The operand fields that `i` uses hold the operands of `i`. -/
structure Record.OperandsOf (r : Record) (i : Instr) : Prop where
  dst : ∀ n ∈ dest? i, r.dst.reg = n.number
  src1 : ∀ n ∈ source1? i, r.src1.reg = n.number
  src2 : ∀ n ∈ source2? i, r.src2.reg = n.number
  imm : usesImm i = true → r.imm = immOf i

theorem Record.instr?_eq_some_iff {r : Record} {i : Instr} (pc : Word) :
    r.instr? = some i ↔ r.op = (i.record pc).op ∧ r.OperandsOf i := by
  constructor
  · intro h
    unfold Record.instr? at h
    split at h <;> cases h
    all_goals
      exact ⟨BitVec.eq_of_toNat_eq ‹_›, by rintro _ ⟨⟩ <;> rfl, by rintro _ ⟨⟩ <;> rfl, by rintro _ ⟨⟩ <;> rfl,
        by rintro ⟨⟩ <;> rfl⟩
  · rintro ⟨hop, hdst, hsrc1, hsrc2, himm⟩
    rw [Record.instr?, hop]
    clear hop
    cases i <;> refine congrArg some ?_ <;>
      simp_all only [dest?, source1?, source2?, usesImm, immOf, RegName.number, Option.mem_some_iff, forall_eq',
        forall_const]

theorem Record.exists_instr?_of_lt {r : Record} (h : r.op.toNat < 28) : ∃ i, r.instr? = some i := by
  unfold Record.instr?
  interval_cases r.op.toNat <;> exact ⟨_, rfl⟩

/-! ## The record check (R89) -/

theorem Record.check_eq_none_iff {r : Record} {i : Instr} {pc : Word} (hop : r.op = (i.record pc).op) :
    r.check pc = none ↔
      (r.reserved = 0 ∧ r.slotsOk i.signature = true) ∧
      (r.isLoad = Machine.isLoad i ∧ r.isStore = Machine.isStore i ∧ r.isBranch = Machine.isBranch i) ∧
      r.pc = pc := by
  obtain ⟨row, hrow, hsig, hl, hs, hb⟩ := i.opRow?_record pc
  simp [Record.check, hop, hrow, hsig, hl, hs, hb, Record.reservedOk, Record.flagsOk, Record.pcOk, and_assoc]

theorem Record.check_of_unknown {r : Record} (pc : Word) (h : 28 ≤ r.op.toNat) :
    r.check pc = some .unknownOpcode := by
  have hrow : opRow? r.op = none := List.getElem?_eq_none h
  rw [Record.check, hrow]

theorem Record.check_of_known {r : Record} {pc : Word} (h : r.op.toNat < 28) (hc : r.check pc ≠ none) :
    r.check pc = some .illegalRecord := by
  have hrow : opRow? r.op = some _ := List.getElem?_eq_getElem h
  simp only [Record.check, hrow] at hc ⊢
  exact if_neg fun hok => hc (if_pos hok)

/-- A record says `i` at `pc` exactly when the check passes it there and its opcode names `i` with its operands. -/
theorem recordSays_iff {r : Record} {i : Instr} {pc : Word} :
    RecordSays r i pc ↔ r.check pc = none ∧ r.instr? = some i := by
  obtain ⟨hd, h1, h2⟩ := i.record_slots pc
  rw [RecordSays, hd, h1, h2, Slot.agrees_naming_iff, Slot.agrees_naming_iff, Slot.agrees_naming_iff,
    Record.instr?_eq_some_iff pc]
  by_cases hop : r.op = (i.record pc).op
  · simp only [Record.check_eq_none_iff hop, Record.slotsOk, Instr.signature, Bool.and_eq_true]
    constructor
    · rintro ⟨-, ⟨hfd, hd⟩, ⟨hf1, h1⟩, ⟨hf2, h2⟩, hl, hs, hb, hres, hpc, himm⟩
      exact ⟨⟨⟨hres, ⟨hfd, hf1⟩, hf2⟩, ⟨hl, hs, hb⟩, hpc⟩, hop, hd, h1, h2, himm⟩
    · rintro ⟨⟨⟨hres, ⟨hfd, hf1⟩, hf2⟩, ⟨hl, hs, hb⟩, hpc⟩, -, hd, h1, h2, himm⟩
      exact ⟨hop, ⟨hfd, hd⟩, ⟨hf1, h1⟩, ⟨hf2, h2⟩, hl, hs, hb, hres, hpc, himm⟩
  · simp only [hop, false_and, and_false]

theorem decode_eq_ok_iff {w : BitVec 96} {pc : Word} {i : Instr} :
    decode w pc = .ok i ↔ (unpack w).check pc = none ∧ (unpack w).instr? = some i := by
  unfold decode
  cases hc : (unpack w).check pc with
  | some e => simp
  | none => cases (unpack w).instr? <;> simp

/-! ## The obligations -/

/-- Settles O1, by running the decoder on each word. -/
theorem sampleWordsDecode : Obligations.SampleWordsDecode := by
  unfold Obligations.SampleWordsDecode
  exact ⟨rfl, rfl, rfl, rfl, rfl, rfl, rfl, rfl, rfl, rfl, rfl⟩

/-- Settles O3: decoding is the check and the opcode's instruction, and a record says what the two together ask. -/
theorem decodesExactlyItsRecords : Obligations.DecodesExactlyItsRecords := by
  unfold Obligations.DecodesExactlyItsRecords
  intro w pc i
  rw [decode_eq_ok_iff, recordSays_iff]

/-- Settles O2: packing loses no field, and the record of `i` says `i`. -/
theorem decodeOfEncode : Obligations.DecodeOfEncode := by
  unfold Obligations.DecodeOfEncode
  intro i pc
  rw [decodesExactlyItsRecords, encode, unpack_pack]
  exact i.recordSays_record pc

end Sys2Proof

namespace Sys2Proof.Machine

/-! ## The record check at issue (40:R106) -/

section fetched

variable {s : State} {w : BitVec 96} (hroom : s.rob.count ≠ s.cfg.robSize) (hw : s.fetch = some w)
include hroom hw

theorem issueOne_of_check_some {e : DecodeError} (hc : (unpack w).check s.pc = some e) :
    issueOne s = .next (s.raise (DecodeError.faultCode e) s.pc 0) := by
  simp [issueOne, State.robFull, hroom, hw, hc]

theorem issueOne_of_check_none {i : Instr} (hc : (unpack w).check s.pc = none) (hi : (unpack w).instr? = some i) :
    issueOne s = exec i (s.atPhase (.issue (unpack w))) := by
  simp [issueOne, State.robFull, hroom, hw, hc, visit_eq hi]

end fetched

/-- Settles O4: a rejected record raises its error's fault, a known opcode always names an instruction, so the record
it is in is rejected unless it says that instruction. -/
theorem recordCheckAtIssue : Obligations.RecordCheckAtIssue := by
  unfold Obligations.RecordCheckAtIssue
  intro s w hroom hw
  refine ⟨fun hop => ?_, fun hop hnone => ?_, fun i hi => ?_⟩
  · exact issueOne_of_check_some hroom hw (Record.check_of_unknown s.pc hop)
  · obtain ⟨i, hi⟩ := Record.exists_instr?_of_lt hop
    have hrejected : (unpack w).check s.pc ≠ none := fun hc => hnone i (recordSays_iff.mpr ⟨hc, hi⟩)
    exact issueOne_of_check_some hroom hw (Record.check_of_known hop hrejected)
  · obtain ⟨hc, hi⟩ := recordSays_iff.mp hi
    exact issueOne_of_check_none hroom hw hc hi

end Sys2Proof.Machine
end

section
/-! PROOFS. What a pending operand waits on (40:R101, 42:R155): issue hands out the tags of live producers without a
result, a broadcast reaches every operand that waits for it, and C takes the head only once it is ready. -/

namespace Sys2Proof.Machine

/-! ## Renaming (R100) -/

section rename

variable {s : State} {q : RegName}

theorem State.rename_of_idle (hb : (s.reg q).busy = false) : s.rename q = ⟨true, (s.reg q).value, 0⟩ := by
  simp [State.rename, hb, Operand.value!]

theorem State.rename_of_ready (hb : (s.reg q).busy = true) (hr : (s.slot (s.reg q).tag).ready = true) :
    s.rename q = ⟨true, (s.slot (s.reg q).tag).value, 0⟩ := by
  simp [State.rename, hb, hr, Operand.value!]

theorem State.rename_of_waiting (hb : (s.reg q).busy = true) (hr : (s.slot (s.reg q).tag).ready = false) :
    s.rename q = ⟨false, 0, (s.reg q).tag⟩ := by
  simp [State.rename, hb, hr]

/-- A renamed operand that is not ready is the tag of a producer without a result. -/
theorem State.rename_pending (hn : (s.rename q).ready = false) :
    (s.reg q).busy = true ∧ (s.slot (s.reg q).tag).ready = false ∧ s.rename q = ⟨false, 0, (s.reg q).tag⟩ := by
  cases hb : (s.reg q).busy
  · rw [State.rename_of_idle hb] at hn
    cases hn
  cases hr : (s.slot (s.reg q).tag).ready
  · exact ⟨rfl, rfl, State.rename_of_waiting hb hr⟩
  · rw [State.rename_of_ready hb hr] at hn
    cases hn

end rename

/-- Settles O8, by the three cases of a rename. -/
theorem renameSnoopsTheRob : Obligations.RenameSnoopsTheRob := by
  unfold Obligations.RenameSnoopsTheRob
  exact fun s q => ⟨State.rename_of_idle, State.rename_of_ready, State.rename_of_waiting⟩

/-! ## Waits -/

theorem State.waitsOk_iff {s : State} (h : s.Fit) :
    s.WaitsOk ↔ ∀ q, (s.entry q).busy = true →
      s.WaitsFor (s.entry q).op1 (s.entry q).tagD ∧ s.WaitsFor (s.entry q).op2 (s.entry q).tagD :=
  ⟨fun hw q hb => hw q (State.mem_entryRefs_of_busy h hb) hb, fun hw q _ => hw q⟩

/-- A wait lasts while the ring stays and its slot does not become ready. -/
theorem State.SameRing.waitsFor {s t : State} (h : s.SameRing t) {o : Operand} {d : Nat}
    (hr : o.ready = false → (s.slot o.tag).ready = false → (t.slot o.tag).ready = false) (hw : s.WaitsFor o d) :
    t.WaitsFor o d := by
  intro hn
  obtain ⟨hlive, hage, hready⟩ := hw hn
  rw [h.liveTags, h.age, h.age]
  exact ⟨hlive, hage, hr hn hready⟩

/-! ## C -/

theorem State.HeadFrame.waitsOk {s u : State} (h : s.HeadFrame u) (hs : s.Fit) (hu : u.Fit) (hw : s.WaitsOk) :
    u.WaitsOk := by
  have hentry : u.entry = s.entry := by funext q; simp only [State.entry, h.frame.rs]
  have hready (o : Operand) (d : Nat) : s.WaitsFor o d → u.WaitsFor o d :=
    h.toSameRing.waitsFor fun _ hn => (h.words _).ready.trans hn
  rw [State.waitsOk_iff hu, hentry]
  exact fun q hb => ((State.waitsOk_iff hs).1 hw q hb).imp (hready _ _) (hready _ _)

/-- A pop of a ready head (R33, R160) ends no wait: what is waited on is not ready, and what waits is younger. -/
theorem State.popAndCount_waitsOk {s : State} (h : s.Fit) (hc : s.rob.count ≠ 0) (hr : s.headSlot.ready = true)
    (hw : s.WaitsOk) : s.popAndCount.WaitsOk := by
  have hentry : s.popAndCount.entry = s.entry := by rw [State.popAndCount_of_ne hc]; rfl
  have hage0 : s.age s.rob.head = 0 := by simp [State.age]
  have hkeep (o : Operand) {d : Nat} (hd : d < s.cfg.robSize) (ho : s.WaitsFor o d) : s.popAndCount.WaitsFor o d := by
    intro hn
    obtain ⟨hlive, hage, hready⟩ := ho hn
    have htag : o.tag ≠ s.rob.head := fun he => by
      rw [State.headSlot, ← he, hready] at hr
      cases hr
    have hown : d ≠ s.rob.head := by rintro rfl; omega
    have h1 := State.popAndCount_age h hc ((State.mem_liveTags_iff h).1 hlive).1 htag
    have h2 := State.popAndCount_age h hc hd hown
    rw [State.popAndCount_mem_liveTags h hc, State.popAndCount_slot h hc, if_neg htag]
    exact ⟨⟨hlive, htag⟩, by omega, hready⟩
  rw [State.waitsOk_iff h.popAndCount, hentry]
  intro q hb
  have hd : (s.entry q).tagD < s.cfg.robSize := ((RsEntry.inRange_iff _ _).1 (h.entryTags q)).2.2
  exact ((State.waitsOk_iff h).1 hw q hb).imp (hkeep _ hd) (hkeep _ hd)

/-- A squash leaves no entry to wait (R170). -/
theorem State.squash_waitsOk (s : State) (w : Word) : (s.squash w).WaitsOk := by
  intro q _ hb
  rw [State.entry_squash] at hb
  cases hb

theorem CommitOutcome.waitsOk {s t : State} (h : s.Fit) (hw : s.WaitsOk) (hc : CommitOutcome s t) : t.WaitsOk := by
  cases hc with
  | stays => exact hw
  | unknown pc => exact hw
  | retires hr =>
    have hh := (State.HeadFrame.stampCommit s).trans (.commitReg _ (destOfRecord s.headSlot.instr))
    obtain ⟨hne, hready⟩ := hh.headReady hr
    have hu := h.stampCommit.commitReg (destOfRecord s.headSlot.instr)
    exact State.popAndCount_waitsOk hu hne hready (hh.waitsOk h hu hw)
  | squashes hr hb hm => exact State.squash_waitsOk _ _
  | holds hr =>
    exact ((State.HeadFrame.stampCommit s).trans (.storeCountdown _)).waitsOk h h.stampCommit.storeCountdown hw
  | stores hr hd =>
    have hh := (State.HeadFrame.stampCommit s).trans (.storeCountdown _)
    have hu := h.stampCommit.storeCountdown
    obtain ⟨f, -, e⟩ | ⟨ha, e⟩ := s.stampCommit.storeCountdown.storeWrite_cases <;> rw [e]
    · exact hh.waitsOk h hu hw
    · have hh := hh.trans (.storeWritten _ (s.stampCommit.storeCountdown.mem.writeWord
        s.stampCommit.storeCountdown.headSlot.addr.toNat s.stampCommit.storeCountdown.headSlot.value))
      have hu := hu.storeWritten ha s.stampCommit.storeCountdown.headSlot.value
      obtain ⟨hne, hready⟩ := hh.headReady hr
      exact State.popAndCount_waitsOk hu hne hready (hh.waitsOk h hu hw)

/-! ## W, X1, X2 and X3 -/

/-- A reservation-station entry with the same operands. -/
structure RsEntry.SameOperands (x y : RsEntry) : Prop where
  op1 : y.op1 = x.op1
  op2 : y.op2 = x.op2

theorem State.setEntry_sameOperands (s : State) (r : RsRef) {x : RsEntry} (hx : (s.entry r).SameOperands x)
    (q : RsRef) : (s.entry q).SameOperands ((s.setEntry r x).entry q) := by
  rw [State.entry_setEntry]
  split_ifs with h
  · exact h.1 ▸ hx
  · exact ⟨rfl, rfl⟩

theorem State.markExecuting_sameOperands (s : State) (ref q : RsRef) :
    (s.entry q).SameOperands ((s.markExecuting ref).entry q) := by
  rw [State.markExecuting_eq, State.entry_setSlot]
  refine s.setEntry_sameOperands ref ?_ q
  exact ⟨rfl, rfl⟩

theorem State.generateAddress_sameOperands (s : State) (k : Nat) (imm : Word) (st : Bool) (q : RsRef) :
    (s.entry q).SameOperands ((s.generateAddress k imm st).entry q) := by
  cases h : (s.entry ⟨.loadB, k⟩).wantsAddress
  · rw [State.generateAddress_skip h]
    exact ⟨rfl, rfl⟩
  · cases st
    · rw [State.generateAddress_load h]
      refine s.setEntry_sameOperands _ ?_ q
      exact ⟨rfl, rfl⟩
    · rw [State.generateAddress_store h, State.entry_setSlot]
      refine s.setEntry_sameOperands _ ?_ q
      exact ⟨rfl, rfl⟩

/-- No change but a broadcast writes an operand (R139, R151). -/
theorem ExecChange.operands {s t : State} (h : ExecChange s t) :
    (∃ l b, t = s.writeResult l b) ∨
      ∀ q, (s.entry q).SameOperands (t.entry q) := by
  cases h with
  | turn τ => exact .inr fun _ => ⟨rfl, rfl⟩
  | raise pc addr hf hu => exact .inr fun _ => ⟨rfl, rfl⟩
  | broadcast hd => exact .inl ⟨_, _, rfl⟩
  | address k imm st => exact .inr (s.generateAddress_sameOperands k imm st)
  | startLane ho hi hj => exact .inr (State.markExecuting_sameOperands _ _)
  | startBypass v ho hi hj => exact .inr (State.markExecuting_sameOperands _ _)
  | count hb hd ht => exact .inr fun _ => ⟨rfl, rfl⟩
  | finish v m hb hd ht => exact .inr fun _ => ⟨rfl, rfl⟩
  | laneFault pc addr hb hf hu => exact .inr fun _ => ⟨rfl, rfl⟩
  | bypassDone => exact .inr fun _ => ⟨rfl, rfl⟩

/-- An operand that waits for another tag than the broadcast's waits on; one that waits for this one is ready (R151). -/
theorem State.writeResult_waitsFor {s : State} {l : SlotRef} {b : Bool} {o : Operand} {d : Nat}
    (hw : s.WaitsFor o d) : (s.writeResult l b).WaitsFor (o.hear (s.tagOf l) (s.slotView l).result) d := by
  unfold Operand.hear
  split_ifs with hx
  · exact nofun
  · refine (s.writeResult_execFrame l b).toSameRing.waitsFor (fun hn hr => ?_) hw
    rwa [State.slot_writeResult_other _ _ _ fun he => hx ⟨hn, he⟩]

theorem State.writeResult_waitsOk {s : State} (h : s.Fit) (hw : s.WaitsOk) (l : SlotRef) (b : Bool) :
    (s.writeResult l b).WaitsOk := by
  refine (State.waitsOk_iff (h.writeResult l b)).2 fun q hq => ?_
  have hb : (s.entry q).busy = true := (s.writeResult_execFrame l b).busy q ▸ hq
  suffices (s.writeResult l b).WaitsFor ((s.entry q).hear (s.tagOf l) (s.slotView l).result).op1 (s.entry q).tagD ∧
      (s.writeResult l b).WaitsFor ((s.entry q).hear (s.tagOf l) (s.slotView l).result).op2 (s.entry q).tagD by
    rw [(s.writeResult_execFrame l b).tagD, State.entry_writeResult]
    split_ifs <;> exact this
  rw [RsEntry.hear, if_pos hb]
  exact ((State.waitsOk_iff h).1 hw q hb).imp State.writeResult_waitsFor State.writeResult_waitsFor

theorem ExecChange.waitsOk {s t : State} (h : s.Fit) (hw : s.WaitsOk) (hc : ExecChange s t) : t.WaitsOk := by
  obtain ⟨l, b, -, rfl⟩ | ⟨-, hready⟩ := hc.marks
  · exact State.writeResult_waitsOk h hw l b
  obtain ⟨l, b, rfl⟩ | hops := hc.operands
  · exact State.writeResult_waitsOk h hw l b
  have hkeep (o : Operand) (d : Nat) : s.WaitsFor o d → t.WaitsFor o d :=
    hc.frame.toSameRing.waitsFor fun _ hn => (hready _).trans hn
  refine (State.waitsOk_iff (h.execChange hc)).2 fun q hq => ?_
  rw [(hops q).op1, (hops q).op2, hc.frame.tagD]
  exact ((State.waitsOk_iff h).1 hw q (hc.frame.busy q ▸ hq)).imp (hkeep _ _) (hkeep _ _)

/-! ## Issue -/

section allocated

variable {s : State} (h : s.Fit) (hr : s.robFull = false)

include h hr

/-- Renaming hands out the tag of a live producer without a result (R100, R101): the new slot is no register's yet. -/
theorem State.source_waits (hs : s.RegsOk) (r : Record) (x : Option RegName)
    (hn : ((s.allocRob r).source x).ready = false) :
    ((s.allocRob r).source x).tag ∈ s.liveTags ∧ (s.slot ((s.allocRob r).source x).tag).ready = false := by
  cases x with
  | none => cases hn
  | some q =>
    rw [State.source] at hn ⊢
    obtain ⟨hb, hready, he⟩ := State.rename_pending hn
    rw [State.reg_allocRob] at hb hready he
    rw [he]
    have hlive := ((State.regTagsOk_iff s).1 hs.2 q hb).1
    have hne : (s.reg q).tag ≠ s.rob.tail := fun ht => State.tail_not_mem_liveTags h hr hs.1 (ht ▸ hlive)
    have hslot : (s.allocRob r).slot (s.reg q).tag = s.slot (s.reg q).tag :=
      (getD_set ..).trans (if_neg fun hx => hne hx.1)
    exact ⟨hlive, hslot ▸ hready⟩

theorem State.allocated_waitsOk {i : Instr} {c : UnitClass} {k : Nat} {r : Record} (hs : s.RegsOk) (hw : s.WaitsOk)
    (hk : s.freeEntry c.pool = some k) : (s.allocated i c k r).WaitsOk := by
  refine (State.waitsOk_iff (h.allocated hr)).2 fun q hq => ?_
  have hkeep {u : Nat} (hu : u ∈ s.liveTags) (hn : (s.slot u).ready = false) :
      u ∈ (s.allocated i c k r).liveTags ∧ ((s.allocated i c k r).slot u).ready = false :=
    ⟨(State.allocated_mem_liveTags h hr hs.1).2 (.inl hu), by rwa [State.allocated_slot_of_mem h hr hs.1 hu]⟩
  by_cases hqn : q = ⟨c.pool, k⟩
  · have hnew (x : Option RegName) : (s.allocated i c k r).WaitsFor ((s.allocRob r).source x) s.rob.tail := by
      intro hn
      obtain ⟨hlive, hready⟩ := State.source_waits h hr hs r x hn
      obtain ⟨hlive', hready'⟩ := hkeep hlive hready
      rw [State.allocated_age, State.allocated_age, State.age_tail h hr hs.1]
      exact ⟨hlive', State.age_lt h hlive, hready'⟩
    rw [hqn, State.entry_allocated_new hk]
    exact ⟨hnew _, hnew _⟩
  · have hold (o : Operand) (d : Nat) (ho : s.WaitsFor o d) : (s.allocated i c k r).WaitsFor o d := by
      intro hn
      obtain ⟨hlive, hage, hready⟩ := ho hn
      obtain ⟨hlive', hready'⟩ := hkeep hlive hready
      rw [State.allocated_age, State.allocated_age]
      exact ⟨hlive', hage, hready'⟩
    rw [State.entry_allocated_other hqn] at hq ⊢
    exact ((State.waitsOk_iff h).1 hw q hq).imp (hold _ _) (hold _ _)

end allocated

theorem IssueOutcome.waitsOk {s t : State} (h : s.Fit) (hs : s.RegsOk) (hw : s.WaitsOk) (hc : IssueOutcome s t) :
    t.WaitsOk := by
  cases hc with
  | stops => exact hw
  | faults pc addr hf hu => exact hw
  | allocates hi hc hr hk => exact State.allocated_waitsOk h hr hs hw hk

/-! ## F and the step -/

/-- F frees entries, and writes no other (R181). -/
theorem State.finalize_waitsOk {s : State} (h : s.Fit) (hw : s.WaitsOk) :
    (s.mapEntries RsEntry.finalize).WaitsOk := by
  refine (State.waitsOk_iff h.finalize).2 fun q hq => ?_
  rw [State.entry_mapEntries rfl] at hq ⊢
  obtain ⟨hb, hrm⟩ := (RsEntry.finalize_busy _).1 hq
  rw [RsEntry.finalize_of_not_remove hrm]
  exact (State.waitsOk_iff h).1 hw q hb

theorem State.stepKeeps_waitsOk : StepKeeps fun s => (s.Fit ∧ s.RegsOk) ∧ s.WaitsOk where
  commit s t h hc := ⟨State.stepKeeps_regsOk.commit s t h.1 hc, hc.waitsOk h.1.1 h.2⟩
  exec s t h hc := ⟨State.stepKeeps_regsOk.exec s t h.1 hc, hc.waitsOk h.1.1 h.2⟩
  issue s t h hc := ⟨State.stepKeeps_regsOk.issue s t h.1 hc, hc.waitsOk h.1.1 h.1.2 h.2⟩
  finalize s h := ⟨State.stepKeeps_regsOk.finalize s h.1, State.finalize_waitsOk h.1.1 h.2⟩
  tick s h := ⟨State.stepKeeps_regsOk.tick s h.1, h.2⟩

/-- Settles O50: every elementary change of a step keeps the waits, with the register tags, which say what a renamed
operand may wait on. -/
theorem pendingOperandsWillHear : Obligations.PendingOperandsWillHear := by
  unfold Obligations.PendingOperandsWillHear
  intro s t hs hregs _ hwaits _ h _
  exact (State.stepKeeps_waitsOk.step ⟨⟨State.runnable_iff_fit.1 hs, hregs⟩, hwaits⟩ h).2

end Sys2Proof.Machine
end

section
/-! PROOFS. The issue stage, one pass at a time (40:R103 to R113): the stops, the fetch, and the allocation of one
instruction. -/

namespace Sys2Proof.Machine

/-! ## What stops issue -/

/-- Settles O6: the check of the ROB comes before the fetch. -/
theorem fullRobStopsBeforeFetch : Obligations.FullRobStopsBeforeFetch := by
  unfold Obligations.FullRobStopsBeforeFetch
  intro s hfull
  have hrob : s.robFull = true := by simp [State.robFull, hfull]
  exact if_pos hrob

/-- Settles O9: without a free entry the issue action stops. -/
theorem fullPoolStopsIssue : Obligations.FullPoolStopsIssue := by
  unfold Obligations.FullPoolStopsIssue
  intro s i r c hp hc hbusy
  have hfull := State.issueInto_full (.inr (State.freeEntry_none hbusy)) ⟨dest? i, source1? i, source2? i⟩ (isBranch i) r
  rw [exec_at_issue hp, hc]
  exact congrArg _ hfull

/-- Settles O10: `EOP` has no class, so its issue action is to stop. -/
theorem eopStopsIssue : Obligations.EopStopsIssue := by
  unfold Obligations.EopStopsIssue
  exact fun s r hp => exec_at_issue hp .eop

/-! ## Fetch (R105) -/

/-- The fetch fails at an offset that is no multiple of 4, or lies past the program. -/
theorem State.fetch_eq_none {s : State}
    (h : (s.pc - s.cfg.base).toNat % 4 ≠ 0 ∨ s.prog.length ≤ (s.pc - s.cfg.base).toNat / 4) : s.fetch = none := by
  by_cases hd : (s.pc - s.cfg.base).toNat % 4 = 0
  · exact (if_neg (not_not.2 hd)).trans (List.getElem?_eq_none (h.resolve_left (not_not.2 hd)))
  · exact if_pos hd

theorem State.fetch_of_aligned {s : State} (hd : (s.pc - s.cfg.base).toNat % 4 = 0) :
    s.fetch = s.prog[(s.pc - s.cfg.base).toNat / 4]? := if_neg (not_not.2 hd)

theorem issueOne_of_fetch_none {s : State} (hroom : s.rob.count ≠ s.cfg.robSize) (h : s.fetch = none) :
    issueOne s = .next (s.raise .fetchOob s.pc s.pc) := by
  simp [issueOne, State.robFull, hroom, h]

/-- Settles O5: with room the pass fetches, and a fetch that fails raises its fault. -/
theorem fetchInsideTheProgram : Obligations.FetchInsideTheProgram := by
  unfold Obligations.FetchInsideTheProgram
  refine fun s hroom => ⟨fun hd => ?_, fun w hd hw => (State.fetch_of_aligned hd).trans hw⟩
  have hnone := State.fetch_eq_none hd
  exact ⟨hnone, issueOne_of_fetch_none hroom hnone⟩

/-! ## The allocation of one instruction (R109 to R113) -/

/-- The issue action of an instruction with room is its allocation. -/
theorem exec_allocates {s : State} {i : Instr} {c : UnitClass} {k : Nat} {r : Record} (hp : s.turn.phase = .issue r)
    (hc : classOf? i = some c) (hr : s.robFull = false) (hk : s.freeEntry c.pool = some k) :
    exec i s = .next (s.allocated i c k r) := by
  rw [exec_at_issue hp, hc]
  exact congrArg _ (State.issueInto_room hr hk _ _ r)

section allocated

variable (s : State) (i : Instr) (c : UnitClass) (k : Nat) (r : Record)

theorem State.allocated_rob : (s.allocated i c k r).rob = (s.allocRob r).rob := by
  unfold State.allocated State.renameDst
  cases dest? i <;> simp

theorem State.allocated_rs : (s.allocated i c k r).rs = s.rs.set c.pool ((s.rs.get c.pool).set k
    { busy := true, instr := r, op1 := (s.allocRob r).source (source1? i), op2 := (s.allocRob r).source (source2? i),
      tagD := s.rob.tail, addr := 0, addrKnown := false, inExec := false, id := s.nextId, remove := false }) := by
  unfold State.allocated State.renameDst
  cases dest? i with
  | none => rfl
  | some d => cases d <;> rfl

theorem State.allocated_turn : (s.allocated i c k r).turn =
    { s.turn with phase := if isBranch i then .finalize else s.turn.phase, issued := s.turn.issued + 1 } := by
  unfold State.allocated State.renameDst
  cases dest? i with
  | none => rfl
  | some d => cases d <;> rfl

theorem State.allocated_sameExcept :
    s.SameExcept (s.allocated i c k r) [.rob, .rs, .gpr, .fpr, .pc, .nextId, .turn] := by
  intro p hp
  unfold State.allocated State.renameDst
  cases dest? i <;> cases p <;> simp [Part.same] at hp ⊢

end allocated

/-- Settles O7: the action with room is an allocation, and its parts are those of the statement. -/
theorem issueAllocatesWhole : Obligations.IssueAllocatesWhole := by
  unfold Obligations.IssueAllocatesWhole
  intro s i r c k hp hc hroom hk hfree hlow
  have hr : s.robFull = false := by simpa [State.robFull] using hroom
  have ha := s.allocated_advanced i c k r
  refine ⟨s.allocated i c k r, { (s.slot s.rob.tail).ts with issue := s.now },
    exec_allocates hp hc hr (State.freeEntry_lowest hk hfree hlow), rfl, s.allocated_rob i c k r, ?_, fun q => ?_, ?_,
    ha.nextId, ?_, s.allocated_sameExcept i c k r⟩
  · rw [State.allocated_rs]
    cases source1? i <;> cases source2? i <;> rfl
  · rw [State.reg_allocated]
  · rw [ha.pc]
    rfl
  · rw [State.allocated_turn, hp]

/-! ## The step (R180) -/

/-- The step of an unfaulted block is its issue stage, F and the cycle count, on what the phases before leave. -/
theorem step_of_beforeIssue {s u : State} (hs : s.Runnable) (hf : s.fault = .noFault)
    (hu : beforeIssue { s with turn := Turn.start } = .next u) (huf : u.fault = .noFault) :
    step s = andThen (andThen (issuePhase u) finalizePhase) tick := by
  rw [step_of_runnable hs, stepBlock, if_pos hf, cycle, hu, andThen_next, if_pos huf, fromIssue]

/-- Settles O38: the first pass of the issue loop finds room and a record that decodes, and gives its instruction the
turn. -/
theorem stepRunsDecodedInstruction : Obligations.StepRunsDecodedInstruction := by
  unfold Obligations.StepRunsDecodedInstruction
  intro s u w i n hs hf hu huf hwidth hroom hw hdec
  obtain ⟨hcheck, hinstr⟩ := decode_eq_ok_iff.1 hdec
  have hone := issueOne_of_check_none (s := { u with turn := { u.turn with issued := 0 } }) hroom hw hcheck hinstr
  rw [step_of_beforeIssue hs hf hu huf, issuePhase, hwidth, issueLoop, hone]
  rfl

end Sys2Proof.Machine
end

section
/-! PROOFS. One turn of X2 (41:R120, R130 to R137), said once: what each kind of instruction does in it, and what it can
leave of the state; the entries it starts and the ROB slots it stamps. -/

namespace Sys2Proof.Machine

theorem RsEntry.eligible_iff (e : RsEntry) : e.eligible = true ↔
    e.busy = true ∧ e.inExec = false ∧ e.op1.ready = true ∧ e.op2.ready = true := by
  simp [RsEntry.eligible, and_assoc]

theorem RsEntry.busy_of_eligible {e : RsEntry} (h : e.eligible = true) : e.busy = true := (e.eligible_iff.1 h).1

/-! ## The turn by kinds of instruction -/

section kinds

variable {s : State} {ref : RsRef} {i : Instr} (hp : s.turn.phase = .dispatch ref)

include hp

theorem exec_dispatchAlu {c : UnitClass} (hc : classOf? i = some c) (hm : c ≠ .memory) :
    exec i s = .next (s.dispatchAlu c ref) := by
  have hkind : isLoad i = false ∧ isStore i = false := by
    cases i <;> simp_all [classOf?, isLoad, isStore]
  rw [exec_at_dispatch hp, hc]
  simp [hkind]

theorem exec_dispatchStore (hi : isStore i = true) : exec i s = .next (s.dispatchStore ref) := by
  have hl : isLoad i = false := by
    by_contra hl
    rw [isStore_of_isLoad (by simpa using hl)] at hi
    cases hi
  rw [exec_at_dispatch hp, classOf?_of_isMemory (.inr hi)]
  simp [hl, hi]

theorem exec_dispatchLoad (hi : isLoad i = true) : exec i s = .next (s.dispatchLoad ref) := by
  rw [exec_at_dispatch hp, classOf?_of_isMemory (.inl hi)]
  simp [hi]

end kinds

/-- What the turn of the entry `ref` in X2 can leave of `s`. -/
inductive DispatchOutcome (s : State) (ref : RsRef) : State → Prop
  /-- The entry is not eligible, or has to wait (R120, R131, R133, R134). -/
  | waits : DispatchOutcome s ref s
  | unknown (hi : (s.entry ref).instr.instr? = none) :
      DispatchOutcome s ref (s.raise .unknownOpcode (s.entry ref).instr.pc 0)
  /-- The scan does not find the load's own tag (R137). -/
  | lost (hb : (s.entry ref).busy = true) (hd : (s.entry ref).tagD ∉ s.liveTags) :
      DispatchOutcome s ref (s.raise .disambigScan (s.entry ref).instr.pc 0)
  /-- A lane of a class other than `MEMORY` (R131). -/
  | timed {c : UnitClass} {j : Nat} (hm : c ≠ .memory) (hb : (s.entry ref).busy = true) (hj : s.freeLane c = some j) :
      DispatchOutcome s ref ((s.setLane c j ⟨true, ref, s.cfg.lat.get c, 0, false, false⟩).markExecuting ref)
  /-- The timed load of the cycle (R133, R134). -/
  | memory {j : Nat} (ht : s.turn.memTimedIssued = false) (hb : (s.entry ref).busy = true)
      (hj : s.freeLane .memory = some j) :
      DispatchOutcome s ref
        (((s.setLane .memory j ⟨true, ref, s.cfg.lat.memory, 0, false, false⟩).markExecuting ref).withTurn
          { s.turn with memTimedIssued := true })
  | bypass {j : Nat} (v : Word) (hb : (s.entry ref).busy = true) (hj : s.freeByp = some j) :
      DispatchOutcome s ref ((s.setByp j ⟨true, ref, v, false⟩).markExecuting ref)

section outcome

variable (s : State) (ref : RsRef)

theorem State.dispatchAlu_outcome {c : UnitClass} (hm : c ≠ .memory) :
    DispatchOutcome s ref (s.dispatchAlu c ref) := by
  unfold State.dispatchAlu
  split_ifs with he
  · cases hj : s.freeLane c with
    | none => rw [State.dispatchTimed_none hj]; exact .waits
    | some j => rw [State.dispatchTimed_some hj]; exact .timed hm (RsEntry.busy_of_eligible he) hj
  · exact .waits

variable {ref}

theorem State.dispatchBypass_outcome (hb : (s.entry ref).busy = true) (v : Word) :
    DispatchOutcome s ref (s.dispatchBypass ref v) := by
  cases hj : s.freeByp with
  | none => rw [State.dispatchBypass_none hj]; exact .waits
  | some j => rw [State.dispatchBypass_some hj]; exact .bypass v hb hj

variable (ref)

theorem State.dispatchStore_outcome : DispatchOutcome s ref (s.dispatchStore ref) := by
  unfold State.dispatchStore
  split_ifs with he
  · exact s.dispatchBypass_outcome (RsEntry.busy_of_eligible he) _
  · exact .waits

theorem State.disambiguate_eq_notLive {e : RsEntry} (h : s.disambiguate e = .notLive) : e.tagD ∉ s.liveTags := by
  have hscan (a : Word) (l : List RobSlot) : scanStores a l ≠ .notLive := by
    induction l with
    | nil => exact nofun
    | cons x l ih =>
      obtain ⟨-, hl⟩ | hl | ⟨-, -, -, -, hl⟩ := scanStores_cons_cases a x l <;> rw [hl]
      · exact ih
      · exact nofun
      · exact nofun
  intro hd
  rw [State.disambiguate, if_pos hd] at h
  exact hscan _ _ h

theorem State.dispatchLoad_outcome : DispatchOutcome s ref (s.dispatchLoad ref) := by
  obtain ⟨-, h⟩ | ⟨he, hd⟩ := s.dispatchLoad_cases ref
  · rw [h]
    exact .waits
  have hb := RsEntry.busy_of_eligible he
  obtain ⟨hd, h⟩ | ⟨-, h⟩ | ⟨v, -, h⟩ | ⟨-, h⟩ := hd <;> rw [h]
  · exact .lost hb (s.disambiguate_eq_notLive hd)
  · exact .waits
  · exact s.dispatchBypass_outcome hb v
  · obtain ⟨h, -⟩ | ⟨j, -, ht, hj, h⟩ := s.dispatchMemory_cases ref <;> rw [h]
    · exact .waits
    · exact .memory ht hb hj

end outcome

theorem dispatchEntry_outcome {ref : RsRef} {s t : State} (h : dispatchEntry ref s = .next t) :
    DispatchOutcome (s.atPhase (.dispatch ref)) ref t := by
  cases hi : (s.entry ref).instr.instr? with
  | none =>
    rw [dispatchEntry, visit, hi] at h
    cases h
    exact .unknown hi
  | some i =>
    rw [dispatchEntry, visit_eq hi] at h
    cases hc : classOf? i with
    | none =>
      rw [exec_at_dispatch rfl, hc] at h
      cases h
      exact .waits
    | some c =>
      by_cases hm : c = .memory
      · subst hm
        obtain hl | hs := isMemory_of_classOf? hc
        · cases (exec_dispatchLoad rfl hl).symm.trans h
          exact State.dispatchLoad_outcome _ _
        · cases (exec_dispatchStore rfl hs).symm.trans h
          exact State.dispatchStore_outcome _ _
      · cases (exec_dispatchAlu rfl hc hm).symm.trans h
        exact State.dispatchAlu_outcome _ _ hm

/-! ## The entries X2 starts -/

/-- A ROB slot whose instruction X2 starts in the cycle `now` (R131, R132). -/
def RobSlot.begun (x : RobSlot) (now : Count) : RobSlot :=
  { x with stage := .execute, ts := { x.ts with execute := now } }

/-- From `s` to `t` the entries `refs` were started: they are in execution, and their ROB slots stamped. Units, the turn
and, with a fault, the fault registers aside, nothing else changed. -/
structure State.Starts (s t : State) (refs : List RsRef) : Prop where
  entry : ∀ q, t.entry q = { s.entry q with inExec := (s.entry q).inExec || decide (q ∈ refs) }
  slot : ∀ u, t.slot u =
    if (∃ q ∈ refs, (s.entry q).tagD = u) ∧ u < s.rob.slots.length then (s.slot u).begun s.now else s.slot u
  slotCount : t.rob.slots.length = s.rob.slots.length
  head : t.rob.head = s.rob.head
  tail : t.rob.tail = s.rob.tail
  count : t.rob.count = s.rob.count
  rest : s.SameExcept t [.rob, .rs, .lanes, .byp, .fault, .faultPc, .faultAddr, .turn]
  faults : t.fault = .noFault → s.SameExcept t [.rob, .rs, .lanes, .byp, .turn]

theorem RobSlot.begun_begun (x : RobSlot) (n : Count) : (x.begun n).begun n = x.begun n := rfl

theorem State.SameExcept.trans {s t u : State} {parts : List Part} (h : s.SameExcept t parts)
    (h' : t.SameExcept u parts) : s.SameExcept u parts := by
  intro p hp
  have h1 := h p hp
  have h2 := h' p hp
  cases p <;> exact Eq.trans h2 h1

namespace State.Starts

variable {s t u : State} {refs refs' : List RsRef}

theorem cfg (h : s.Starts t refs) : t.cfg = s.cfg := h.rest .cfg (by decide)

theorem cycle (h : s.Starts t refs) : t.cycle = s.cycle := h.rest .cycle (by decide)

/-- Units, the turn and the fault registers are no part of what is started. -/
theorem ofSame (hrs : t.rs = s.rs) (hrob : t.rob = s.rob)
    (hrest : s.SameExcept t [.rob, .rs, .lanes, .byp, .fault, .faultPc, .faultAddr, .turn])
    (hfaults : t.fault = .noFault → s.SameExcept t [.rob, .rs, .lanes, .byp, .turn]) : s.Starts t [] where
  entry q := by simp [State.entry, hrs]
  slot u := by simp [State.slot, hrob]
  slotCount := by rw [hrob]
  head := by rw [hrob]
  tail := by rw [hrob]
  count := by rw [hrob]
  rest := hrest
  faults := hfaults

theorem trans (h : s.Starts t refs) (h' : t.Starts u refs') : s.Starts u (refs ++ refs') where
  entry q := by
    rw [h'.entry, h.entry]
    simp [Bool.or_assoc]
  slot v := by
    have htag (q : RsRef) : (t.entry q).tagD = (s.entry q).tagD := by rw [h.entry]
    have hnow : t.now = s.now := congrArg (· + 1) h.cycle
    simp only [h'.slot, h.slot, htag, hnow, h.slotCount, List.mem_append, or_and_right, exists_or]
    by_cases hv : v < s.rob.slots.length <;> by_cases h1 : ∃ q ∈ refs, (s.entry q).tagD = v <;>
      by_cases h2 : ∃ q ∈ refs', (s.entry q).tagD = v <;> simp [hv, h1, h2, RobSlot.begun_begun]
  slotCount := h'.slotCount.trans h.slotCount
  head := h'.head.trans h.head
  tail := h'.tail.trans h.tail
  count := h'.count.trans h.count
  rest := h.rest.trans h'.rest
  faults hu := by
    have hut := h'.faults hu
    exact (h.faults ((hut .fault (by decide)).symm.trans hu)).trans hut

theorem withTurn (s : State) (τ : Turn) : s.Starts (s.withTurn τ) [] := by
  refine .ofSame rfl rfl ?_ fun _ => ?_ <;> intro p hp <;> cases p <;> simp [Part.same, State.withTurn] at hp ⊢

theorem refl (s : State) : s.Starts s [] := withTurn s s.turn

theorem raise (s : State) {f : FaultCode} (pc addr : Word) (hf : f ≠ .noFault) : s.Starts (s.raise f pc addr) [] := by
  refine .ofSame rfl rfl ?_ fun hn => absurd hn hf
  intro p hp
  cases p <;> simp [Part.same] at hp ⊢

theorem setLane (s : State) (c : UnitClass) (j : Nat) (l : Lane) : s.Starts (s.setLane c j l) [] := by
  refine .ofSame rfl rfl ?_ fun _ => ?_ <;> intro p hp <;> cases p <;> simp [Part.same] at hp ⊢

theorem setByp (s : State) (j : Nat) (b : BypSlot) : s.Starts (s.setByp j b) [] := by
  refine .ofSame rfl rfl ?_ fun _ => ?_ <;> intro p hp <;> cases p <;> simp [Part.same] at hp ⊢

theorem markExecuting {ref : RsRef} (hb : (s.entry ref).busy = true) : s.Starts (s.markExecuting ref) [ref] where
  entry q := by
    have hlt := State.entry_lt_of_busy hb
    rw [State.entry_markExecuting]
    by_cases hq : q = ref
    · subst hq; simp [hlt]
    · simp [hq]
  slot u := by
    rw [State.markExecuting_eq, State.slot_setSlot, State.slot_setEntry, State.setEntry_rob]
    simp only [List.mem_singleton, exists_eq_left]
    by_cases hu : (s.entry ref).tagD = u
    · subst hu; rfl
    · simp [hu]
  slotCount := List.length_set ..
  head := rfl
  tail := rfl
  count := rfl
  rest p hp := by cases p <;> simp [Part.same, State.markExecuting_eq] at hp ⊢
  faults _ p hp := by cases p <;> simp [Part.same, State.markExecuting_eq] at hp ⊢

end State.Starts

theorem DispatchOutcome.starts {s t : State} {ref : RsRef} (h : DispatchOutcome s ref t) : ∃ refs, s.Starts t refs := by
  cases h with
  | waits => exact ⟨_, .refl s⟩
  | unknown hi => exact ⟨_, .raise s _ _ (by decide)⟩
  | lost hb hd => exact ⟨_, .raise s _ _ (by decide)⟩
  | timed hm hb hj => exact ⟨_, (State.Starts.setLane s _ _ _).trans (.markExecuting hb)⟩
  | memory ht hb hj => exact ⟨_, ((State.Starts.setLane s _ _ _).trans (.markExecuting hb)).trans (.withTurn _ _)⟩
  | bypass v hb hj => exact ⟨_, (State.Starts.setByp s _ _).trans (.markExecuting hb)⟩

theorem dispatchPhase_starts {s t : State} (h : dispatchPhase s = .next t) : ∃ refs, s.Starts t refs := by
  refine forEach_keeps (P := fun u => ∃ refs, s.Starts u refs) (fun c u v hu h => ?_) _ _ t
    ⟨_, .withTurn s { s.turn with memTimedIssued := false }⟩ h
  refine forEach_keeps (P := fun u => ∃ refs, s.Starts u refs) (fun ref u v hu h => ?_) _ u v hu h
  obtain ⟨refs, hu⟩ := hu
  obtain ⟨refs', hv⟩ := (dispatchEntry_outcome h).starts
  exact ⟨_, (hu.trans (.withTurn _ _)).trans hv⟩

/-- Settles O16: X2 starts entries, which writes nothing else. -/
theorem dispatchWritesNoResult : Obligations.DispatchWritesNoResult := by
  unfold Obligations.DispatchWritesNoResult
  intro s t h
  obtain ⟨refs, h⟩ := dispatchPhase_starts h
  refine ⟨fun u => ?_, fun e => ?_, h.head, h.tail, h.count, h.rest⟩
  · rw [h.slot]
    split_ifs <;> exact ⟨rfl, rfl, rfl, rfl, rfl, rfl, rfl⟩
  · rw [h.entry]
    exact ⟨rfl, rfl, rfl, rfl⟩

end Sys2Proof.Machine
end

section
/-! PROOFS. One turn of X1 and of X2 in the words of the rules (41:R120 to R134), and the disambiguation check by age
(41:R136). -/

namespace Sys2Proof.Machine

/-! ## Units in the words of the rules -/

/-- A timed dispatch takes the lowest free lane (R131). -/
theorem State.dispatchTimed_executing {s : State} {c : UnitClass} {j : Nat} (hj : s.freeLane c = some j) (ref : RsRef) :
    s.dispatchTimed c ref = { s.executing ref with
      lanes := s.lanes.set c ((s.lanes.get c).set j ⟨true, ref, s.cfg.lat.get c, 0, false, false⟩) } :=
  State.dispatchTimed_some hj ref

/-- A bypass dispatch takes the lowest free bypass slot (R132). -/
theorem State.dispatchBypass_executing {s : State} {j : Nat} (hj : s.freeByp = some j) (ref : RsRef) (v : Word) :
    s.dispatchBypass ref v = { s.executing ref with byp := s.byp.set j ⟨true, ref, v, false⟩ } :=
  State.dispatchBypass_some hj ref v

/-- Settles O12: the turn is a timed dispatch of an eligible entry. -/
theorem timedDispatchTakesLowestLane : Obligations.TimedDispatchTakesLowestLane := by
  unfold Obligations.TimedDispatchTakesLowestLane
  rintro s i c ref hp hc hm e rfl
  simp only [← RsEntry.eligible_iff]
  rw [exec_dispatchAlu hp hc hm, State.dispatchAlu]
  refine ⟨fun he => ⟨fun hbusy => ?_, fun j hj hfree hlow => ?_⟩, fun he => ?_⟩
  · rw [if_pos he, State.dispatchTimed_none (State.freeLane_none hbusy)]
  · rw [if_pos he, State.dispatchTimed_executing (State.freeLane_lowest hj hfree hlow)]
  · rw [if_neg he]

/-- Settles O13: the turn is a bypass dispatch of an eligible entry, which no `memBlock` holds. -/
theorem storeDispatchTakesBypassSlot : Obligations.StoreDispatchTakesBypassSlot := by
  unfold Obligations.StoreDispatchTakesBypassSlot
  rintro s i ref hp hi e rfl
  simp only [← RsEntry.eligible_iff]
  refine ⟨fun he j hj hfree hlow => exec_store_at_dispatch hi hp he (State.freeByp_lowest hj hfree hlow), fun he => ?_⟩
  rw [exec_dispatchStore hp hi, State.dispatchStore, if_neg he]

/-- A load that needs memory and is not held takes the lowest free lane (R133, R134). -/
theorem State.dispatchMemory_executing {s : State} (hb : s.memBlock = false) (ht : s.turn.memTimedIssued = false)
    {j : Nat} (hj : s.freeLane .memory = some j) (ref : RsRef) :
    s.dispatchMemory ref = { s.executing ref with
      lanes := { s.lanes with memory := s.lanes.memory.set j ⟨true, ref, s.cfg.lat.memory, 0, false, false⟩ }
      turn := { s.turn with memTimedIssued := true } } := by
  obtain ⟨-, h⟩ | ⟨k, -, -, hk, h⟩ := s.dispatchMemory_cases ref
  · simp [hb, ht, hj] at h
  · cases hj.symm.trans hk
    exact h

/-- A load that needs memory is held by `memBlock`, by the timed dispatch of the cycle, or for want of a lane. -/
theorem State.dispatchMemory_held {s : State}
    (h : s.memBlock = true ∨ s.turn.memTimedIssued = true ∨ s.freeLane .memory = none) (ref : RsRef) :
    s.dispatchMemory ref = s := by
  obtain ⟨h', -⟩ | ⟨j, hb, ht, hj, -⟩ := s.dispatchMemory_cases ref
  · exact h'
  · simp [hb, ht, hj] at h

/-- Settles O14, by the outcomes of the check. -/
theorem loadDispatchByDisambiguation : Obligations.LoadDispatchByDisambiguation := by
  unfold Obligations.LoadDispatchByDisambiguation
  rintro s i ref hp hi e rfl
  simp only [← RsEntry.eligible_iff]
  rw [exec_dispatchLoad hp hi, State.dispatchLoad]
  refine ⟨fun he => if_neg he ▸ rfl, fun he => ?_⟩
  rw [if_pos he]
  refine ⟨fun hd => ?_, fun hd => ?_, fun v hd j hj hfree hlow => ?_, fun hd => ?_⟩ <;> rw [hd]
  · rfl
  · dsimp only
    rw [State.dispatchBypass_executing (State.freeByp_lowest hj hfree hlow)]
  · refine ⟨fun hheld => ?_, fun hb ht j hj hfree hlow => ?_⟩ <;> dsimp only
    · rw [State.dispatchMemory_held (hheld.imp_right (.imp_right State.freeLane_none))]
    · rw [State.dispatchMemory_executing hb ht (State.freeLane_lowest hj hfree hlow)]

/-! ## The check by age (R136, R137) -/

/-- Transparent slots do not decide a scan. -/
theorem scanStores_olderSlots {s : State} {a : Word} {k n : Nat} (hk : k ≤ n)
    (h : ∀ m, k ≤ m → m < n → (s.slotAtAge m).Transparent a) :
    scanStores a (s.olderSlots n) = scanStores a (s.olderSlots k) := by
  induction n, hk using Nat.le_induction with
  | base => rfl
  | succ n hk ih =>
    have hn : (s.slotAtAge n).instr.opIsStore = false ∨
        ((s.slotAtAge n).addrKnown = true ∧ (s.slotAtAge n).addr ≠ a) := by
      cases hs : (s.slotAtAge n).instr.opIsStore
      · exact .inl rfl
      · exact .inr (h n hk (Nat.lt_succ_self n) hs)
    rw [State.olderSlots_succ, scanStores_transparent hn]
    exact ih fun m hm hmn => h m hm (Nat.lt_succ_of_lt hmn)

/-- The check of a load of age `n` scans the slots of ages below `n`, nearest first. -/
theorem State.disambiguate_of_age {s : State} {e : RsEntry} {n : Nat} (hh : s.rob.head < s.cfg.robSize)
    (hc : s.rob.count ≤ s.cfg.robSize) (hn : n < s.rob.count) (he : (s.rob.head + n) % s.cfg.robSize = e.tagD) :
    s.disambiguate e = scanStores e.addr (s.olderSlots n) := by
  have hlive : e.tagD ∈ s.liveTags := by
    simp only [State.liveTags, State.tagsFrom, List.mem_map, List.mem_range]
    exact ⟨n, hn, he⟩
  have hne : ∀ j < n, (s.rob.head + j) % s.cfg.robSize ≠ (s.rob.head + n) % s.cfg.robSize := by
    intro j hj
    rw [mod_of_lt_two_mul (by omega), mod_of_lt_two_mul (by omega)]
    split_ifs <;> omega
  rw [State.disambiguate, if_pos hlive, State.olderTags, State.liveTags, State.tagsFrom, ← he,
    takeWhile_map_range hn hne, List.map_reverse, List.map_map]
  rfl

/-- Settles O15: the slots between the load and the deciding one do not matter, and what it holds decides. -/
theorem nearestOlderStoreDecides : Obligations.NearestOlderStoreDecides := by
  unfold Obligations.NearestOlderStoreDecides
  intro s e hh hc
  refine ⟨fun he => if_neg he, fun n hn he => ?_⟩
  rw [State.disambiguate_of_age hh hc hn he]
  refine ⟨fun h => ?_, fun j hj hbetween hs => ?_⟩
  · exact scanStores_olderSlots (Nat.zero_le n) fun m _ => h m
  · have hscan : scanStores e.addr (s.olderSlots n) = scanStores e.addr (s.slotAtAge j :: s.olderSlots j) := by
      rw [scanStores_olderSlots hj hbetween, State.olderSlots_succ]
    rw [hscan]
    exact ⟨scanStores_unknown hs, scanStores_match hs⟩

end Sys2Proof.Machine
end

section
/-! PROOFS. Where the faults `MEM_STRUCTURAL` (60:R305) and `DISAMBIG_SCAN` (60:R307) can come from: the completion port
alone raises the first, a scan without its load the second; every other action of a step raises neither. -/

namespace Sys2Proof.Machine

/-- A fault that the invariants of the instructions in flight rule out in X2 and X3 (R305, R307). -/
abbrev FaultCode.Hazard (f : FaultCode) : Prop := f = .memStructural ∨ f = .disambigScan

/-- From `s` to `t` neither fault was raised. -/
def State.NoHazard (s t : State) : Prop := t.fault = s.fault ∨ ¬ t.fault.Hazard

theorem State.NoHazard.trans {s t u : State} (h : s.NoHazard t) (h' : t.NoHazard u) : s.NoHazard u :=
  h'.elim (fun e => h.imp e.trans fun hn => by rwa [e]) .inr

theorem State.NoHazard.fault_ne {s t : State} (h : s.NoHazard t) {f : FaultCode} (hf : f.Hazard) (hs : s.fault ≠ f) :
    t.fault ≠ f :=
  h.elim (fun e => e ▸ hs) fun hn he => hn (he ▸ hf)

theorem visit_noHazard {p : Phase} {r : Record} {s t : State}
    (hx : ∀ i, r.instr? = some i → exec i (s.atPhase p) = .next t → s.NoHazard t) (h : visit p r s = .next t) :
    s.NoHazard t := by
  obtain ⟨i, hi, h⟩ | rfl := visit_cases h
  · exact hx i hi h
  · exact .inr (by decide : ¬ FaultCode.unknownOpcode.Hazard)

theorem accessFault_not_hazard {cfg : Config} {a : Word} {f : FaultCode} (h : accessFault cfg a = some f) :
    ¬ f.Hazard := by
  unfold accessFault at h
  split_ifs at h <;> cases h <;> decide

/-! ## C -/

theorem State.popAndCount_noHazard (s : State) : s.NoHazard s.popAndCount := by
  by_cases hc : s.rob.count = 0
  · rw [State.popAndCount, if_pos hc]
    exact .inr (by decide : ¬ FaultCode.robUnderflow.Hazard)
  · exact .inl (State.popAndCount_pc_fault hc).2

theorem State.storeWrite_noHazard (s : State) : s.NoHazard s.storeWrite := by
  obtain ⟨f, hf, e⟩ | ⟨-, e⟩ := s.storeWrite_cases <;> rw [e]
  · exact .inr (accessFault_not_hazard hf)
  · exact State.popAndCount_noHazard
      { s with mem := s.mem.writeWord s.headSlot.addr.toNat s.headSlot.value, memBlock := false }

theorem CommitOutcome.noHazard {s t : State} (h : CommitOutcome s t) : s.NoHazard t := by
  have hstamp := s.stampCommit_sameFetch
  cases h with
  | stays => exact .inl rfl
  | unknown pc => exact .inr (by decide : ¬ FaultCode.unknownOpcode.Hazard)
  | retires hr =>
    exact .trans (.inl (hstamp.trans (s.stampCommit.commitReg_sameFetch _)).fault) (State.popAndCount_noHazard _)
  | squashes hr hb hm =>
    refine .inl ?_
    rw [State.squash_fault]
    exact hstamp.fault
  | holds hr => exact .inl (hstamp.trans s.stampCommit.storeCountdown_sameFetch).fault
  | stores hr hd =>
    exact .trans (.inl (hstamp.trans s.stampCommit.storeCountdown_sameFetch).fault) (State.storeWrite_noHazard _)

theorem commitPhase_noHazard {s t : State} (h : commitPhase s = .next t) : s.NoHazard t := by
  obtain ⟨τ, h⟩ := commitPhase_outcome h
  exact h.noHazard

/-! ## W, X1, X2 -/

theorem writebackSlot_noHazard {l : SlotRef} {s t : State} (h : writebackSlot l s = .next t) : s.NoHazard t := by
  unfold writebackSlot at h
  split_ifs at h
  · refine visit_noHazard (fun i _ h => ?_) h
    cases (exec_at_writeback rfl i).symm.trans h
    split_ifs
    · exact .inl rfl
    · exact .inl (State.writeResult_fault ..)
  · cases h
    exact .inl rfl

theorem addressEntry_noHazard {k : Nat} {s t : State} (h : addressEntry k s = .next t) : s.NoHazard t := by
  unfold addressEntry at h
  split_ifs at h
  · refine visit_noHazard (fun i _ h => ?_) h
    cases (exec_at_address rfl i).symm.trans h
    split_ifs
    · exact .inl (State.generateAddress_fault ..)
    · exact .inl rfl
  · cases h
    exact .inl rfl

/-- The scan finds the tag of a busy entry (R38, R137). -/
theorem DispatchOutcome.noHazard {s t : State} {ref : RsRef} (hs : s.Fit) (hp : s.PoolsOk)
    (h : DispatchOutcome s ref t) : s.NoHazard t := by
  cases h with
  | waits => exact .inl rfl
  | unknown hi => exact .inr (by decide : ¬ FaultCode.unknownOpcode.Hazard)
  | lost hb hd => exact absurd (((State.poolsOk_iff hs).1 hp).1 ref hb).live hd
  | timed hm hb hj => exact .inl rfl
  | memory ht hb hj => exact .inl rfl
  | bypass v hb hj => exact .inl rfl

/-! ## X3 -/

theorem State.finishAlu_noHazard (s : State) (c : UnitClass) (j : Nat) (pc : Word) {x : Except FaultCode Word}
    (hx : ∀ f, x = .error f → ¬ f.Hazard) : s.NoHazard (s.finishAlu c j pc x) := by
  cases x with
  | ok v => exact .inl rfl
  | error f => exact .inr (hx f rfl)

theorem State.finishLoad_noHazard (s : State) (c : UnitClass) (j : Nat) (e : RsEntry) :
    s.NoHazard (s.finishLoad c j e) := by
  unfold State.finishLoad State.memRead
  cases hm : accessFault s.cfg e.addr with
  | some f => exact .inr (accessFault_not_hazard hm)
  | none => exact .inl rfl

theorem computes_noHazard (i : Instr) (c : UnitClass) (j : Nat) (e : RsEntry) (s : State) :
    s.NoHazard (computes i c j e s) := by
  unfold computes
  split_ifs
  · exact s.finishLoad_noHazard c j e
  · exact .inl rfl
  · exact .inr (by decide : ¬ FaultCode.unknownOpcode.Hazard)
  · split
    · exact s.finishAlu_noHazard c j _ fun f hf => divide_error hf ▸ by decide
    · exact .inl rfl

theorem countLane_noHazard {c : UnitClass} {j : Nat} {s t : State} (h : countLane c j s = .next t) :
    s.NoHazard t := by
  unfold countLane at h
  split_ifs at h
  · refine visit_noHazard (fun i _ h => ?_) h
    cases (exec_at_complete rfl i).symm.trans h
    unfold State.countDown
    dsimp only
    split_ifs
    · exact computes_noHazard i c j _ _
    · exact .inl rfl
    · exact .inl rfl
  · cases h
    exact .inl rfl

/-! ## I -/

theorem State.issueInto_fault (s : State) (p : Pool) (ops : Operands) (b : Bool) (r : Record) :
    (s.issueInto p ops b r).fault = s.fault := by
  obtain ⟨h, -⟩ | ⟨k, -, -, h⟩ := s.issueInto_cases p ops b r <;> rw [h]
  · rfl
  · cases hd : ops.dst <;> simp [State.renameDst]

theorem issueOne_noHazard {s t : State} (h : issueOne s = .next t) : s.NoHazard t := by
  unfold issueOne at h
  split_ifs at h
  · cases h
    exact .inl rfl
  split at h
  · cases h
    exact .inr (by decide : ¬ FaultCode.fetchOob.Hazard)
  split at h
  next e _ =>
    cases h
    cases e
    · exact .inr (by decide : ¬ FaultCode.unknownOpcode.Hazard)
    · exact .inr (by decide : ¬ FaultCode.illegalRecord.Hazard)
  next =>
    refine visit_noHazard (fun i _ h => ?_) h
    rw [exec_at_issue rfl] at h
    cases h
    cases classOf? i
    · exact .inl rfl
    · exact .inl (State.issueInto_fault ..)

theorem issuePhase_noHazard {s t : State} (h : issuePhase s = .next t) : s.NoHazard t :=
  issueLoop_keeps (P := s.NoHazard) (fun _ _ hu h => hu.trans (issueOne_noHazard h)) _
    { s with turn := { s.turn with issued := 0 } } t (.inl rfl) h

/-! ## The step -/

/-- What runs before the issue stage alone decides whether a step raises the fault. -/
theorem step_fault_ne {s t : State} {f : FaultCode} (hf : f.Hazard) (hs : s.fault = .noFault) (h : step s = .next t)
    (hv : ∀ v, beforeIssue { s with turn := Turn.start } = .next v → v.fault ≠ f) : t.fault ≠ f := by
  obtain ⟨v, hb, ⟨-, rfl⟩ | ⟨-, h⟩⟩ := step_phases hs h
  · exact hv t hb
  · obtain ⟨u, hu, ht⟩ := fromIssue_cases h
    have huf := (issuePhase_noHazard hu).fault_ne hf (hv v hb)
    obtain ⟨-, rfl⟩ | ⟨-, rfl⟩ := ht
    · exact huf
    · exact huf

/-- The result of an action: not the fault `f`, and `P` if no fault was raised. -/
def Avoids (f : FaultCode) (P : State → Prop) (o : Result) : Prop :=
  ∀ t, o = .next t → t.fault ≠ f ∧ (t.fault = .noFault → P t)

theorem Avoids.andThen {f : FaultCode} {P Q : State → Prop} {o : Result} {g : State → Result} (ho : Avoids f P o)
    (hg : ∀ u, u.fault = .noFault → P u → Avoids f Q (g u)) : Avoids f Q (andThen o g) := by
  intro t h
  obtain ⟨u, hu, ⟨hn, rfl⟩ | ⟨hn, h⟩⟩ := andThen_eq_next h
  · exact ⟨(ho t hu).1, fun h0 => absurd h0 hn⟩
  · exact hg u hn ((ho u hu).2 hn) t h

/-- An action that raises neither fault avoids both. -/
theorem Avoids.ofNoHazard {f : FaultCode} (hf : f.Hazard) {s : State} (hs : s.fault = .noFault) {P : State → Prop}
    {o : Result} (h : ∀ t, o = .next t → s.NoHazard t ∧ (t.fault = .noFault → P t)) : Avoids f P o := by
  intro t ht
  obtain ⟨hn, hP⟩ := h t ht
  refine ⟨hn.fault_ne hf ?_, hP⟩
  rw [hs]
  rintro rfl
  exact absurd hf (by decide)

/-- The phases before the issue stage avoid a fault that each of them avoids, with `P` up to X1 and `Q` after X2. -/
theorem beforeIssue_avoids {f : FaultCode} {P Q R : State → Prop} {s : State} (hC : Avoids f P (commitPhase s))
    (hW : ∀ u, u.fault = .noFault → P u → Avoids f P (writebackPhase u))
    (hA : ∀ u, u.fault = .noFault → P u → Avoids f P (addressPhase u))
    (hD : ∀ u, u.fault = .noFault → P u → Avoids f Q (dispatchPhase u))
    (hX : ∀ u, u.fault = .noFault → Q u → Avoids f R (countPhase u)) : Avoids f R (beforeIssue s) :=
  (((hC.andThen hW).andThen hA).andThen hD).andThen hX

/-! ## The scan -/

/-- A runnable state whose pools and ROB agree: what X2 asks of a state not to fail a scan. -/
abbrev State.ScanOk (s : State) : Prop := s.Fit ∧ s.PoolsOk

theorem ExecRun.scanOk {s t : State} (hr : ExecRun s t) (h : s.ScanOk) : t.ScanOk := by
  refine hr.keeps (P := State.ScanOk) (fun u v hu hc => ?_) h
  have hv := hu.1.execChange hc
  exact ⟨hv, hc.frame.poolsOk hu.1 hv hu.2⟩

/-- A dispatch turn of an entry on the list of its class raises neither fault (R137). -/
theorem dispatchEntry_noHazard {ref : RsRef} {s t : State} (h : s.ScanOk) (hx : dispatchEntry ref s = .next t) :
    s.NoHazard t :=
  DispatchOutcome.noHazard (s := s.atPhase (.dispatch ref)) (h.1.withTurn _) h.2 (dispatchEntry_outcome hx)

theorem dispatchClass_noHazard {c : UnitClass} {s t : State} (h : s.ScanOk) (hx : dispatchClass c s = .next t) :
    s.NoHazard t := by
  suffices ∀ l ⊆ s.entriesOldestFirst c, ∀ u, ExecRun s u → s.NoHazard u → forEach dispatchEntry l u = .next t →
      s.NoHazard t from this _ (List.Subset.refl _) s .refl (.inl rfl) hx
  intro l
  induction l with
  | nil => rintro - u - hu ⟨⟩; exact hu
  | cons ref l ih =>
    intro hl u hr hu hx
    obtain ⟨hp, hi, hc⟩ := State.mem_entriesOldestFirst (hl List.mem_cons_self)
    obtain ⟨v, hv, hx⟩ := andThen_eq_next hx
    have hsv := hu.trans (dispatchEntry_noHazard (hr.scanOk h) hv)
    obtain ⟨-, rfl⟩ | ⟨-, hx⟩ := hx
    · exact hsv
    · have hrun := dispatchEntry_run hp (hr.frame.cfg ▸ hi) (hr.frame.entryInstr ref ▸ hc) hv
      exact ih (fun q hq => hl (List.mem_cons_of_mem ref hq)) v (hr.trans hrun) hsv hx

theorem dispatchPhase_noHazard {s t : State} (h : s.ScanOk) (hx : dispatchPhase s = .next t) : s.NoHazard t := by
  refine (forEach_keeps (P := fun u => u.ScanOk ∧ s.NoHazard u) (fun c u v hu hx => ?_) _
    (s.withTurn { s.turn with memTimedIssued := false }) t ⟨⟨h.1.withTurn _, h.2⟩, .inl rfl⟩ hx).2
  exact ⟨(dispatchClass_run hx).scanOk hu.1, hu.2.trans (dispatchClass_noHazard hu.1 hx)⟩

theorem writebackPhase_noHazard {s t : State} (hx : writebackPhase s = .next t) : s.NoHazard t :=
  forEach_keeps (P := s.NoHazard) (fun _ _ _ hu h => hu.trans (writebackSlot_noHazard h)) _ s t (.inl rfl) hx

theorem addressPhase_noHazard {s t : State} (hx : addressPhase s = .next t) : s.NoHazard t :=
  forEach_keeps (P := s.NoHazard) (fun _ _ _ hu h => hu.trans (addressEntry_noHazard h)) _ s t (.inl rfl) hx

theorem countLanes_noHazard {s t : State} (hx : forEach countClass UnitClass.all s = .next t) : s.NoHazard t :=
  forEach_keeps (P := s.NoHazard) (fun _ u v hu h => forEach_keeps (P := s.NoHazard)
    (fun _ _ _ hu h => hu.trans (countLane_noHazard h)) _ u v hu h) _ s t (.inl rfl) hx

theorem finishCompletions_fault {s t : State} (hx : finishCompletions s = .next t) :
    t.fault = if 1 < s.turn.memDone then .memStructural else s.fault := by
  unfold finishCompletions at hx
  dsimp only at hx
  split_ifs at hx with h <;> cases hx
  · rw [if_pos h]; rfl
  · rw [if_neg h]

/-- Settles O52: the pools and the ROB agree through C, W, X1 and X2, so every scan finds its load. -/
theorem scanAlwaysFindsTheLoad : Obligations.ScanAlwaysFindsTheLoad := by
  unfold Obligations.ScanAlwaysFindsTheLoad
  intro s t hs hi hf h
  have hz : FaultCode.disambigScan.Hazard := .inr rfl
  refine step_fault_ne hz hf h fun v hv => ?_
  have hC : Avoids .disambigScan State.ScanOk (commitPhase { s with turn := Turn.start }) :=
    .ofNoHazard (s := { s with turn := Turn.start }) hz hf fun u hu => by
      obtain ⟨hfit, -, -, -, hpools, -⟩ := commitPhase_inFlightOk ⟨(State.runnable_iff_fit.1 hs).withTurn .start, hi⟩ hu
      exact ⟨commitPhase_noHazard hu, fun _ => ⟨hfit, hpools⟩⟩
  refine (beforeIssue_avoids (Q := State.ScanOk) (R := fun _ => True) hC (fun u hu hok => ?_) (fun u hu hok => ?_)
    (fun u hu hok => ?_) (fun u hu hok => ?_) v hv).1
  · exact .ofNoHazard hz hu fun w hw => ⟨writebackPhase_noHazard hw, fun _ => (writebackPhase_run hw).scanOk hok⟩
  · exact .ofNoHazard hz hu fun w hw => ⟨addressPhase_noHazard hw, fun _ => (addressPhase_run hw).scanOk hok⟩
  · exact .ofNoHazard hz hu fun w hw => ⟨dispatchPhase_noHazard hok hw, fun _ => (dispatchPhase_run hw).scanOk hok⟩
  · refine Avoids.andThen (P := fun _ => True) (.ofNoHazard (s := { u with turn := { u.turn with memDone := 0 } }) hz hu
      fun w hw => ⟨countLanes_noHazard hw, fun _ => trivial⟩) fun w hw _ x hx => ⟨?_, fun _ => trivial⟩
    rw [finishCompletions_fault hx, hw]
    split_ifs <;> decide

end Sys2Proof.Machine
end

section
/-! PROOFS. At most one load completes in a cycle (41:R134, 42:R145): the memory lanes in countdown have different times
to go, X2 adds at most one of the full latency, and X3 takes one cycle from each. -/

namespace Sys2Proof.Machine

/-! ## The countdowns of the memory lanes -/

/-- A lane in countdown (R41). -/
abbrev Lane.Counting (l : Lane) : Prop := l.busy = true ∧ l.done = false

/-- A lane whose countdown ends in the next X3 (R140). -/
abbrev Lane.Ending (l : Lane) : Prop := l.Counting ∧ l.ttl - 1 = 0

/-- The memory lanes in countdown have different times to go (R134). -/
def State.Staggered (s : State) : Prop :=
  ∀ i j, i ≠ j → (s.lane .memory i).Counting → (s.lane .memory j).Counting →
    (s.lane .memory i).ttl ≠ (s.lane .memory j).ttl

/-- No load has been given a memory lane in this cycle: every countdown has begun before (R134). -/
def State.AllBegun (s : State) : Prop := ∀ j, (s.lane .memory j).Counting → (s.lane .memory j).ttl < s.cfg.lat.memory

theorem State.loadsStaggered_iff {s : State} : s.LoadsStaggered ↔ s.AllBegun ∧ s.Staggered := by
  have hbegun : s.AllBegun ↔ ∀ l ∈ s.lanes.memory, l.busy = true → l.done = false → l.ttl < s.cfg.lat.memory := by
    refine Iff.trans ?_ (forall_getD_iff (d := Lane.empty)
      (P := fun l : Lane => l.busy = true → l.done = false → l.ttl < s.cfg.lat.memory) nofun)
    exact forall_congr' fun j => and_imp
  have hlane (j : Nat) (hj : j < s.lanes.memory.length) : s.lane .memory j = s.lanes.memory[j] := by
    simp [State.lane, PerClass.get, hj]
  refine and_congr hbegun.symm ⟨fun h i j hij hi hj => ?_, fun h => ?_⟩
  · have hil := State.lane_lt_of_busy hi.1
    have hjl := State.lane_lt_of_busy hj.1
    have hpair := List.pairwise_iff_getElem.1 h
    rw [hlane i hil] at hi ⊢
    rw [hlane j hjl] at hj ⊢
    obtain hlt | hlt := Nat.lt_or_gt_of_ne hij
    · exact hpair i j hil hjl hlt hi.1 hi.2 hj.1 hj.2
    · exact (hpair j i hjl hil hlt hj.1 hj.2 hi.1 hi.2).symm
  · refine List.pairwise_iff_getElem.2 fun i j hi hj hij hib hid hjb hjd => ?_
    rw [← hlane i hi] at hib hid ⊢
    rw [← hlane j hj] at hjb hjd ⊢
    exact h i j (Nat.ne_of_lt hij) ⟨hib, hid⟩ ⟨hjb, hjd⟩

/-- Every memory lane of `t` in countdown was in countdown in `s`, with `k` cycles more to go. -/
def State.CountsOn (s t : State) (k : Nat) : Prop :=
  ∀ j, (t.lane .memory j).Counting → (s.lane .memory j).Counting ∧ (t.lane .memory j).ttl + k = (s.lane .memory j).ttl

namespace State.CountsOn

variable {s t : State}

theorem ofLanes (h : t.lanes = s.lanes) : s.CountsOn t 0 := by
  intro j hj
  simp only [State.lane, h] at hj ⊢
  exact ⟨hj, rfl⟩

theorem trans {u : State} (h : s.CountsOn t 0) (h' : t.CountsOn u 0) : s.CountsOn u 0 := fun j hj =>
  have ⟨ht, he⟩ := h' j hj
  have ⟨hs, he'⟩ := h j ht
  ⟨hs, he.trans he'⟩

/-- One lane is no longer in countdown, or keeps its time to go. -/
theorem setLane (s : State) (c : UnitClass) (j : Nat) {l : Lane}
    (hl : l.Counting → (s.lane c j).Counting ∧ l.ttl = (s.lane c j).ttl) : s.CountsOn (s.setLane c j l) 0 := by
  intro k hk
  rw [State.lane_setLane] at hk ⊢
  split_ifs at hk ⊢ with h
  · obtain ⟨⟨rfl, rfl⟩, -⟩ := h
    exact hl hk
  · exact ⟨hk, rfl⟩

theorem staggered {k : Nat} (h : s.CountsOn t k) (hs : s.Staggered) : t.Staggered := by
  intro i j hij hi hj he
  obtain ⟨hi, hti⟩ := h i hi
  obtain ⟨hj, htj⟩ := h j hj
  exact hs i j hij hi hj (by omega)

theorem allBegun (h : s.CountsOn t 0) (hc : t.cfg = s.cfg) (hs : s.AllBegun) : t.AllBegun := by
  intro j hj
  obtain ⟨hj, ht⟩ := h j hj
  rw [hc]
  exact ht.trans_lt (hs j hj)

/-- After a cycle every countdown has begun. -/
theorem allBegun_of_fit (h : s.CountsOn t 1) (hc : t.cfg = s.cfg) (hs : s.Fit) : t.AllBegun := by
  intro j hj
  obtain ⟨-, ht⟩ := h j hj
  have hle : (s.lane .memory j).ttl ≤ s.cfg.lat.memory := (hs.laneRange .memory j).2
  rw [hc]
  omega

end State.CountsOn

/-! ## C, W and X1 begin no countdown -/

theorem State.commitReg_lanes (s : State) (dst : Option RegName) : (s.commitReg dst).lanes = s.lanes := by
  cases dst <;> simp [State.commitReg]

theorem State.popAndCount_lanes (s : State) : s.popAndCount.lanes = s.lanes := by
  unfold State.popAndCount
  split_ifs <;> rfl

theorem State.storeWrite_lanes (s : State) : s.storeWrite.lanes = s.lanes := by
  obtain ⟨f, -, e⟩ | ⟨-, e⟩ := s.storeWrite_cases <;> rw [e]
  · rfl
  · exact State.popAndCount_lanes _

theorem CommitOutcome.countsOn {s t : State} (h : CommitOutcome s t) : s.CountsOn t 0 := by
  have hstamp := (State.CommitFrame.stampCommit s).lanes
  cases h with
  | stays => exact .ofLanes rfl
  | unknown pc => exact .ofLanes rfl
  | retires hr =>
    exact .ofLanes ((State.popAndCount_lanes _).trans ((State.commitReg_lanes _ _).trans hstamp))
  | squashes hr hb hm =>
    intro j hj
    rw [State.lane_squash] at hj
    exact absurd hj.1 nofun
  | holds hr => exact .ofLanes hstamp
  | stores hr hd => exact .ofLanes ((State.storeWrite_lanes _).trans hstamp)

theorem State.writeResult_countsOn (s : State) (l : SlotRef) (b : Bool) : s.CountsOn (s.writeResult l b) 0 := by
  have hfree : s.CountsOn (s.freeSlot l) 0 := by
    cases l with
    | timed c j => exact .setLane s c j fun h => absurd h.1 nofun
    | bypass j => exact .ofLanes rfl
  intro j hj
  have he : (s.writeResult l b).lane .memory j = (s.freeSlot l).lane .memory j := by cases l <;> rfl
  rw [he] at hj ⊢
  exact hfree j hj

theorem writebackPhase_countsOn {s t : State} (h : writebackPhase s = .next t) : s.CountsOn t 0 := by
  refine forEach_keeps (P := fun u => s.CountsOn u 0) (fun l u v hu h => ?_) _ s t (.ofLanes rfl) h
  unfold writebackSlot at h
  split_ifs at h
  · obtain ⟨i, -, h⟩ | rfl := visit_cases h
    · cases (exec_at_writeback rfl i).symm.trans h
      split_ifs
      · exact hu
      · exact hu.trans (State.writeResult_countsOn (u.atPhase (.writeback l)) l (isBranch i))
    · exact hu
  · cases h
    exact hu

theorem addressPhase_countsOn {s t : State} (h : addressPhase s = .next t) : s.CountsOn t 0 := by
  refine forEach_keeps (P := fun u => s.CountsOn u 0) (fun k u v hu h => ?_) _ s t (.ofLanes rfl) h
  unfold addressEntry at h
  split_ifs at h
  · obtain ⟨i, -, h⟩ | rfl := visit_cases h
    · cases (exec_at_address rfl i).symm.trans h
      split_ifs
      · exact hu.trans (.ofLanes (State.generateAddress_units (u.atPhase (.address k)) k _ _).1)
      · exact hu
    · exact hu
  · cases h
    exact hu

/-! ## X2 begins one countdown at most -/

/-- The countdowns in X2: they are staggered, and all begun before while no load was given a lane (R134). -/
structure State.OneLoad (s : State) : Prop where
  staggered : s.Staggered
  begun : s.turn.memTimedIssued = false → s.AllBegun

theorem State.OneLoad.ofCountsOn {s t : State} (h : s.OneLoad) (hl : s.CountsOn t 0) (hc : t.cfg = s.cfg)
    (ht : t.turn.memTimedIssued = s.turn.memTimedIssued) : t.OneLoad :=
  ⟨hl.staggered h.staggered, fun hn => hl.allBegun hc (h.begun (ht.symm.trans hn))⟩

/-- A countdown of the full latency differs from those already begun. -/
theorem State.Staggered.startLane {s : State} (h : s.Staggered) (hb : s.AllBegun) (j : Nat) (ref : RsRef) :
    (s.setLane .memory j ⟨true, ref, s.cfg.lat.memory, 0, false, false⟩).Staggered := by
  intro i k hik hi hk
  rw [State.lane_setLane] at hi hk ⊢
  rw [State.lane_setLane]
  split_ifs at hi hk ⊢ with hij hkj hkj
  · exact absurd (hij.1.2.trans hkj.1.2.symm) hik
  · exact (hb k hk).ne'
  · exact (hb i hi).ne
  · exact h i k hik hi hk

theorem DispatchOutcome.oneLoad {s t : State} {ref : RsRef} (hs : s.OneLoad) (h : DispatchOutcome s ref t) :
    t.OneLoad := by
  cases h with
  | waits => exact hs
  | unknown hi => exact hs.ofCountsOn (.ofLanes rfl) rfl rfl
  | lost hb hd => exact hs.ofCountsOn (.ofLanes rfl) rfl rfl
  | @timed c j hm hb hj =>
    refine hs.ofCountsOn (fun k hk => ?_) rfl rfl
    have hlane : (s.setLane c j ⟨true, ref, s.cfg.lat.get c, 0, false, false⟩).lane .memory k = s.lane .memory k :=
      State.lane_setLane_other s c .memory j k _ fun he => hm (congrArg Prod.fst he).symm
    exact ⟨hlane ▸ hk, congrArg Lane.ttl hlane⟩
  | @memory j ht hb hj => exact ⟨hs.staggered.startLane (hs.begun ht) j ref, nofun⟩
  | bypass v hb hj => exact hs.ofCountsOn (.ofLanes rfl) rfl rfl

theorem dispatchPhase_staggered {s t : State} (hs : s.LoadsStaggered) (h : dispatchPhase s = .next t) :
    t.Staggered := by
  obtain ⟨hb, hst⟩ := State.loadsStaggered_iff.1 hs
  refine State.OneLoad.staggered (forEach_keeps (P := State.OneLoad) (fun c u v hu h => ?_) UnitClass.all
    (s.withTurn { s.turn with memTimedIssued := false }) t ⟨hst, fun _ => hb⟩ h)
  refine forEach_keeps (P := State.OneLoad) (fun ref u v hu h => ?_) _ u v hu h
  have hp : (u.atPhase (.dispatch ref)).OneLoad := hu.ofCountsOn (.ofLanes rfl) rfl rfl
  exact (dispatchEntry_outcome h).oneLoad hp

/-! ## X3 takes a cycle from every countdown -/

theorem State.finishLoad_memDone (s : State) (c : UnitClass) (j : Nat) (e : RsEntry) :
    (s.finishLoad c j e).turn.memDone ≤ s.turn.memDone + 1 := by
  unfold State.finishLoad
  cases s.memRead e.addr with
  | error f => exact Nat.le_succ _
  | ok v => exact le_rfl

/-- Only a load counts at the completion port (R143, R145). -/
theorem computes_memDone (i : Instr) (c : UnitClass) (j : Nat) (e : RsEntry) (s : State) :
    (computes i c j e s).turn.memDone ≤ s.turn.memDone + if isLoad i then 1 else 0 := by
  unfold computes
  split_ifs with hl
  · exact s.finishLoad_memDone c j e
  · exact le_rfl
  · exact le_rfl
  · split
    · cases divide s.cfg.divSigned e.op1.value e.op2.value <;> exact le_rfl
    · exact le_rfl

/-- What the turn of lane `j` of class `c` leaves of the lanes and of the port's count. -/
structure State.LaneTurn (s t : State) (c : UnitClass) (j : Nat) : Prop where
  other : ∀ d k, (d, k) ≠ (c, j) → t.lane d k = s.lane d k
  own : (t.lane c j).Counting → (s.lane c j).Counting ∧ (t.lane c j).ttl + 1 = (s.lane c j).ttl
  memDone : t.turn.memDone ≤ s.turn.memDone + if c = .memory ∧ (s.lane c j).Ending then 1 else 0

theorem State.laneTurn_more {s : State} {c : UnitClass} {j : Nat} (hl : (s.lane c j).Counting)
    (ht : (s.lane c j).ttl - 1 ≠ 0) :
    s.LaneTurn (s.setLane c j { s.lane c j with ttl := (s.lane c j).ttl - 1 }) c j where
  other d k hk := State.lane_setLane_other s c d j k _ hk
  own _ := by
    rw [State.lane_setLane_same s c j _ (State.lane_lt_of_busy hl.1)]
    exact ⟨hl, by simp only; omega⟩
  memDone := Nat.le_add_right _ _

/-- A countdown that ends leaves the lane done; a load alone is counted, and it has a memory lane (R42, R143). -/
theorem State.laneTurn_last {s : State} {c : UnitClass} {j : Nat} (hl : (s.lane c j).Ending) {i : Instr}
    (hc : classOf? i = some c) (e : RsEntry)
    (hf : (computes i c j e (s.setLane c j { s.lane c j with ttl := 0 })).fault = .noFault) :
    s.LaneTurn (computes i c j e (s.setLane c j { s.lane c j with ttl := 0 })) c j := by
  have hm := computes_memDone i c j e (s.setLane c j { s.lane c j with ttl := 0 })
  obtain ⟨v, m, τ, hx, -⟩ := computes_unfaulted hl.1.1 rfl hf
  have hlane (d : UnitClass) (k : Nat) :
      (computes i c j e (s.setLane c j { s.lane c j with ttl := 0 })).lane d k = (s.laneDone c j v m).lane d k := by
    rw [hx]
    rfl
  refine ⟨fun d k hk => ?_, fun hd => ?_, hm.trans (Nat.add_le_add_left ?_ _)⟩
  · rw [hlane]
    exact State.lane_setLane_other s c d j k _ hk
  · rw [hlane, State.laneDone, State.laneAs_eq, State.lane_setLane_same s c j _ (State.lane_lt_of_busy hl.1.1)] at hd
    exact absurd hd.2 nofun
  · split_ifs with hld hcm hcm
    · exact le_rfl
    · cases hc.symm.trans (classOf?_of_isMemory (.inl hld))
      exact absurd ⟨rfl, hl⟩ hcm
    · exact Nat.zero_le _
    · exact le_rfl

theorem countLane_laneTurn {s t : State} {c : UnitClass} {j : Nat} (hs : s.Fit) (hm : s.MidCycleOk)
    (h : countLane c j s = .next t) (ht : t.fault = .noFault) : s.LaneTurn t c j := by
  unfold countLane at h
  split_ifs at h with hl
  · obtain ⟨hb, hd⟩ : (s.lane c j).busy = true ∧ (s.lane c j).done = false := by simpa using hl
    obtain ⟨i, hi, h⟩ := visit_unfaulted h ht
    have hserves : s.Serves (s.lane c j).rs c := ((State.slotsOk_iff hs).1 hm.tables.2.2).1 (.timed c j) hb
    have hc : classOf? i = some c := (Record.unitClass?_of_instr? hi).symm.trans hserves.unit
    have hb' : ((s.atPhase (.complete c j)).lane c j).busy = true := hb
    have hd' : ((s.atPhase (.complete c j)).lane c j).done = false := hd
    suffices (s.atPhase (.complete c j)).LaneTurn t c j from ⟨this.other, this.own, this.memDone⟩
    rw [exec_at_complete rfl] at h
    by_cases htt : ((s.atPhase (.complete c j)).lane c j).ttl - 1 = 0
    · rw [State.countDown_last hb' hd' htt] at h
      cases h
      exact State.laneTurn_last ⟨⟨hb', hd'⟩, htt⟩ hc _ ht
    · rw [State.countDown_more hb' hd' htt] at h
      cases h
      exact State.laneTurn_more ⟨hb', hd'⟩ htt
  · cases h
    refine ⟨fun _ _ _ => rfl, fun hl' => ?_, Nat.le_add_right _ _⟩
    exact absurd hl' (by simpa using hl)

/-- A state in X3 that has not faulted. -/
abbrev State.InX3 (s : State) : Prop := s.Fit ∧ s.MidCycleOk

theorem countLane_inX3 {s t : State} {c : UnitClass} {j : Nat} (hs : s.InX3) (h : countLane c j s = .next t)
    (ht : t.fault = .noFault) : t.InX3 :=
  have hr := countLane_run h
  ⟨State.stepKeeps_fit.run hs.1 hr, hr.midCycleOk hs.1 hs.2 ht⟩

/-- The turns of a class other than `MEMORY` leave the memory lanes and the port's count alone. -/
theorem countClass_other {s t : State} {c : UnitClass} (hc : c ≠ .memory) (hs : s.InX3)
    (h : countClass c s = .next t) (ht : t.fault = .noFault) :
    t.InX3 ∧ (∀ k, t.lane .memory k = s.lane .memory k) ∧ t.turn.memDone ≤ s.turn.memDone := by
  refine forEach_unfaulted (P := fun u => u.InX3 ∧ (∀ k, u.lane .memory k = s.lane .memory k) ∧
    u.turn.memDone ≤ s.turn.memDone) (fun j _ u v hu h hv => ?_) s t ⟨hs, fun _ => rfl, le_rfl⟩ h ht
  obtain ⟨hu, hlanes, hdone⟩ := hu
  have hturn := countLane_laneTurn hu.1 hu.2 h hv
  refine ⟨countLane_inX3 hu h hv, fun k => ?_, ?_⟩
  · rw [hturn.other .memory k fun he => hc (congrArg Prod.fst he).symm, hlanes]
  · have hm := hturn.memDone
    rw [if_neg fun he => hc he.1] at hm
    exact hm.trans hdone

/-- The turns of different memory lanes: each takes a cycle from its lane, and the port's count grows by the countdowns
that end. -/
theorem countLanes_memory {l : List Nat} (hl : l.Nodup) :
    ∀ s t : State, s.InX3 → forEach (countLane .memory) l s = .next t → t.fault = .noFault →
      t.InX3 ∧ (∀ k ∉ l, t.lane .memory k = s.lane .memory k) ∧
      (∀ k ∈ l, (t.lane .memory k).Counting →
        (s.lane .memory k).Counting ∧ (t.lane .memory k).ttl + 1 = (s.lane .memory k).ttl) ∧
      t.turn.memDone ≤ s.turn.memDone + l.countP fun k => decide (s.lane .memory k).Ending := by
  induction l with
  | nil => rintro s t hs ⟨⟩ -; exact ⟨hs, fun _ _ => rfl, nofun, le_rfl⟩
  | cons j l ih =>
    intro s t hs h ht
    obtain ⟨hj, hl⟩ := List.nodup_cons.1 hl
    obtain ⟨u, hu, huf, h⟩ := andThen_unfaulted h ht
    have hturn := countLane_laneTurn hs.1 hs.2 hu huf
    have hsame (k : Nat) (hk : k ≠ j) : u.lane .memory k = s.lane .memory k :=
      hturn.other .memory k fun he => hk (congrArg Prod.snd he)
    obtain ⟨hx, hrest, hcount, hdone⟩ := ih hl u t (countLane_inX3 hs hu huf) h ht
    refine ⟨hx, fun k hk => ?_, fun k hk => ?_, ?_⟩
    · obtain ⟨hkj, hkl⟩ := List.ne_and_not_mem_of_not_mem_cons hk
      rw [hrest k hkl, hsame k hkj]
    · obtain rfl | hk := List.mem_cons.1 hk
      · rw [hrest k hj]
        exact hturn.own
      · rw [← hsame k fun he => hj (he ▸ hk)]
        exact hcount k hk
    · have hcongr : l.countP (fun k => decide (u.lane .memory k).Ending) =
          l.countP fun k => decide (s.lane .memory k).Ending :=
        List.countP_congr fun k hk => by rw [hsame k fun he => hj (he ▸ hk)]
      have hm := hturn.memDone
      simp only [true_and] at hm
      rw [hcongr] at hdone
      rw [List.countP_cons]
      simp only [decide_eq_true_eq]
      omega

/-- Of staggered countdowns at most one ends. -/
theorem State.Staggered.countP_ending_le_one {s : State} (h : s.Staggered) (hm : s.MidCycleOk) {l : List Nat}
    (hl : l.Nodup) : l.countP (fun k => decide (s.lane .memory k).Ending) ≤ 1 := by
  have hone (k : Nat) (hk : (s.lane .memory k).Ending) : (s.lane .memory k).ttl = 1 := by
    obtain ⟨hb, -, -⟩ | ⟨-, hpos, -, -⟩ | ⟨-, -, hd⟩ := hm.lanes .memory k
    · exact absurd (hb.symm.trans hk.1.1) nofun
    · have := hk.2
      omega
    · exact absurd (hk.1.2.symm.trans hd) nofun
  rw [List.countP_eq_length_filter]
  have hnodup := hl.filter fun k => decide (s.lane .memory k).Ending
  have hend : ∀ k ∈ l.filter fun k => decide (s.lane .memory k).Ending, (s.lane .memory k).Ending := fun k hk =>
    of_decide_eq_true (List.mem_filter.1 hk).2
  match l.filter fun k => decide (s.lane .memory k).Ending, hnodup, hend with
  | [], _, _ => exact Nat.zero_le 1
  | [_], _, _ => exact le_rfl
  | i :: j :: _, hnodup, hend =>
    have hi := hend i (by simp)
    have hj := hend j (by simp)
    have hij : i ≠ j := fun he => (List.nodup_cons.1 hnodup).1 (by simp [he])
    exact absurd ((hone i hi).trans (hone j hj).symm) (h i j hij hi.1 hj.1)

/-- The last pass of a loop that raises no fault. -/
theorem forEach_concat_unfaulted {α : Type} {f : α → State → Result} {l : List α} {x : α} {t : State}
    (ht : t.fault = .noFault) :
    ∀ s : State, s.fault = .noFault → forEach f (l ++ [x]) s = .next t →
      ∃ u, forEach f l s = .next u ∧ u.fault = .noFault ∧ f x u = .next t := by
  induction l with
  | nil =>
    intro s hs h
    obtain ⟨u, hu, -, h⟩ := andThen_unfaulted h ht
    cases h
    exact ⟨s, rfl, hs, hu⟩
  | cons y l ih =>
    intro s hs h
    obtain ⟨v, hv, hvf, h⟩ := andThen_unfaulted h ht
    obtain ⟨u, hu, huf, hx⟩ := ih v hvf h
    refine ⟨u, ?_, huf, hx⟩
    rw [forEach_cons, hv, andThen_next, if_pos hvf, hu]

/-- X3 up to the bypass slots: the port counts one load at most, and every countdown has lost a cycle. -/
theorem countClasses_oneLoad {s t : State} (hs : s.InX3) (hf : s.fault = .noFault) (hst : s.Staggered)
    (hd : s.turn.memDone = 0) (h : forEach countClass UnitClass.all s = .next t) (ht : t.fault = .noFault) :
    t.turn.memDone ≤ 1 ∧ s.CountsOn t 1 := by
  obtain ⟨u, hu, huf, h⟩ := forEach_concat_unfaulted (f := countClass)
    (l := [.integer, .adder, .multiplier, .divider]) (x := .memory) ht s hf h
  obtain ⟨hux, hlanes, hdone⟩ : u.InX3 ∧ (∀ k, u.lane .memory k = s.lane .memory k) ∧ u.turn.memDone ≤ 0 := by
    refine forEach_unfaulted (P := fun u => u.InX3 ∧ (∀ k, u.lane .memory k = s.lane .memory k) ∧ u.turn.memDone ≤ 0)
      (fun c hc v w hv h hw => ?_) s u ⟨hs, fun _ => rfl, hd.le⟩ hu huf
    have hm : c ≠ .memory := by
      rintro rfl
      exact absurd hc (by decide)
    obtain ⟨hwx, hsame, hle⟩ := countClass_other hm hv.1 h hw
    exact ⟨hwx, fun k => (hsame k).trans (hv.2.1 k), hle.trans hv.2.2⟩
  have hust : u.Staggered := fun i j hij => by
    rw [hlanes, hlanes]
    exact hst i j hij
  obtain ⟨htx, hrest, hcount, hport⟩ := countLanes_memory List.nodup_range u t hux h ht
  refine ⟨?_, fun k hk => ?_⟩
  · have hone := hust.countP_ending_le_one hux.2 (l := List.range (u.cfg.lanes.get .memory)) List.nodup_range
    omega
  · rw [← hlanes]
    by_cases hkl : k ∈ List.range (u.cfg.lanes.get .memory)
    · exact hcount k hkl hk
    · rw [hrest k hkl] at hk
      exact absurd (List.mem_range.2 (hux.1.laneCount .memory ▸ State.lane_lt_of_busy hk.1)) hkl

/-! ## The step -/

/-- The in-flight invariant in the middle of a cycle, with every countdown begun and all staggered. -/
abbrev State.LoadsOk (s : State) : Prop := s.InX3 ∧ s.LoadsStaggered

theorem State.LoadsOk.ofRun {s t : State} (h : s.LoadsOk) (hr : ExecRun s t) (hl : s.CountsOn t 0)
    (ht : t.fault = .noFault) : t.LoadsOk := by
  obtain ⟨⟨hs, hm⟩, hst⟩ := h
  obtain ⟨hb, hst⟩ := State.loadsStaggered_iff.1 hst
  exact ⟨⟨State.stepKeeps_fit.run hs hr, hr.midCycleOk hs hm ht⟩,
    State.loadsStaggered_iff.2 ⟨hl.allBegun hr.frame.cfg hb, hl.staggered hst⟩⟩

theorem commitPhase_loadsOk {s t : State} (hs : s.Fit) (hi : s.InFlightOk) (hl : s.LoadsStaggered)
    (h : commitPhase s = .next t) : t.LoadsOk := by
  obtain ⟨hb, hst⟩ := State.loadsStaggered_iff.1 hl
  obtain ⟨hft, hit⟩ := commitPhase_inFlightOk ⟨hs, hi⟩ h
  obtain ⟨_, ht', hcfg, -⟩ := commitPhase_nextKeepsSetup s
  cases ht'.symm.trans h
  obtain ⟨τ, ho⟩ := commitPhase_outcome h
  have hcounts : s.CountsOn t 0 := ho.countsOn
  exact ⟨⟨hft, State.InFlightOk.midCycleOk hft hit⟩,
    State.loadsStaggered_iff.2 ⟨hcounts.allBegun hcfg hb, hcounts.staggered hst⟩⟩

theorem finishCompletions_lanes {s t : State} (h : finishCompletions s = .next t) :
    t.lanes = s.lanes ∧ t.cfg = s.cfg := by
  unfold finishCompletions at h
  dsimp only at h
  split_ifs at h <;> cases h <;> exact ⟨rfl, rfl⟩

theorem State.loadsStaggered_congr {s t : State} (hl : t.lanes = s.lanes) (hc : t.cfg = s.cfg) :
    t.LoadsStaggered ↔ s.LoadsStaggered := by
  rw [State.LoadsStaggered, hl, hc]

theorem countPhase_avoids {s : State} (hs : s.InX3 ∧ s.Staggered) (hf : s.fault = .noFault) :
    Avoids .memStructural State.LoadsStaggered (countPhase s) := by
  have hz : FaultCode.memStructural.Hazard := .inl rfl
  refine Avoids.andThen (P := fun u => u.turn.memDone ≤ 1 ∧ u.LoadsStaggered)
    (.ofNoHazard (s := s.withTurn { s.turn with memDone := 0 }) hz hf
      fun u hu => ⟨countLanes_noHazard hu, fun huf => ?_⟩)
    fun u huf hu t ht => ?_
  · have hs0 : (s.withTurn { s.turn with memDone := 0 }).InX3 := ⟨hs.1.1.withTurn _, { hs.1.2 with }⟩
    obtain ⟨hport, hcount⟩ := countClasses_oneLoad hs0 hf hs.2 rfl hu huf
    have hcfg : u.cfg = s.cfg := by
      obtain ⟨_, hu', hcfg, -⟩ := forEach_nextKeepsSetup (f := countClass)
        (fun c u => forEach_nextKeepsSetup (countLane_nextKeepsSetup c) _ u) UnitClass.all
        (s.withTurn { s.turn with memDone := 0 })
      cases hu'.symm.trans hu
      exact hcfg
    exact ⟨hport, State.loadsStaggered_iff.2 ⟨hcount.allBegun_of_fit hcfg hs0.1, hcount.staggered hs.2⟩⟩
  · obtain ⟨hlanes, hcfg⟩ := finishCompletions_lanes ht
    rw [finishCompletions_fault ht, if_neg (Nat.not_lt.2 hu.1), huf, State.loadsStaggered_congr hlanes hcfg]
    exact ⟨nofun, fun _ => hu.2⟩

theorem beforeIssue_avoids_memStructural {s : State} (hs : s.Fit) (hi : s.InFlightOk) (hl : s.LoadsStaggered)
    (hf : s.fault = .noFault) : Avoids .memStructural State.LoadsStaggered (beforeIssue s) := by
  have hz : FaultCode.memStructural.Hazard := .inl rfl
  refine beforeIssue_avoids (P := State.LoadsOk) (Q := fun u => u.InX3 ∧ u.Staggered)
    (.ofNoHazard hz hf fun u hu => ⟨commitPhase_noHazard hu, fun _ => commitPhase_loadsOk hs hi hl hu⟩)
    (fun u hu hok => .ofNoHazard hz hu fun w hw => ⟨writebackPhase_noHazard hw, fun hwf => ?_⟩)
    (fun u hu hok => .ofNoHazard hz hu fun w hw => ⟨addressPhase_noHazard hw, fun hwf => ?_⟩)
    (fun u hu hok => .ofNoHazard hz hu fun w hw => ⟨?_, fun hwf => ?_⟩)
    fun u hu hok => countPhase_avoids hok hu
  · exact hok.ofRun (writebackPhase_run hw) (writebackPhase_countsOn hw) hwf
  · exact hok.ofRun (addressPhase_run hw) (addressPhase_countsOn hw) hwf
  · exact dispatchPhase_noHazard ⟨hok.1.1, hok.1.2.tables.2.1⟩ hw
  · have hr := dispatchPhase_run hw
    exact ⟨⟨State.stepKeeps_fit.run hok.1.1 hr, hr.midCycleOk hok.1.1 hok.1.2 hwf⟩, dispatchPhase_staggered hok.2 hw⟩

theorem issuePhase_loadsStaggered {s t : State} (hl : s.LoadsStaggered) (h : issuePhase s = .next t) :
    t.LoadsStaggered := by
  refine issueLoop_keeps (P := State.LoadsStaggered) (fun u v hu h => ?_) _ _ t ?_ h
  · obtain ⟨τ, ho⟩ := issueOne_outcome h
    cases ho with
    | stops => exact hu
    | faults pc addr hf hx => exact hu
    | allocates hi hc hr hk =>
      obtain ⟨hcfg, -, hlanes, -⟩ := (u.withTurn τ).allocated_fields _ _ _ _
      exact (State.loadsStaggered_congr hlanes hcfg).2 hu
  · exact hl

/-- Settles O51: no two loads end together, so the port never counts two, and the loads are staggered again after
X3, since X2 gave at most one of them a lane. -/
theorem memoryPortNeverContended : Obligations.MemoryPortNeverContended := by
  unfold Obligations.MemoryPortNeverContended
  intro s t hs hi hl hf h
  have hfit := (State.runnable_iff_fit.1 hs).withTurn .start
  have hbefore := beforeIssue_avoids_memStructural hfit hi hl hf
  refine ⟨step_fault_ne (.inl rfl) hf h fun v hv => (hbefore v hv).1, fun htf => ?_⟩
  obtain ⟨v, hv, ⟨hn, rfl⟩ | ⟨hvf, h⟩⟩ := step_phases hf h
  · exact absurd htf hn
  obtain ⟨u, hu, ht⟩ := fromIssue_cases h
  have hul : u.LoadsStaggered := issuePhase_loadsStaggered ((hbefore v hv).2 hvf) hu
  obtain ⟨-, rfl⟩ | ⟨-, rfl⟩ := ht
  · exact hul
  · exact hul

end Sys2Proof.Machine
end

section
/-! PROOFS. X1 (41:R122, R123): the turn of one entry of `LOAD_B`, and the whole phase, in which every entry has its
turn and no two write the same ROB slot. -/

namespace Sys2Proof.Machine

theorem RsEntry.wantsAddress_iff (e : RsEntry) : e.wantsAddress = true ↔ e.NeedsAddress := by
  simp [RsEntry.wantsAddress, and_assoc]

/-- A record of a class names an instruction of that class (R86, R87). -/
theorem Record.exists_instr?_of_unitClass? {r : Record} {c : UnitClass} (h : r.unitClass? = some c) :
    ∃ i, r.instr? = some i ∧ classOf? i = some c := by
  have hop : r.op.toNat < 28 := by
    by_contra hn
    have hrow : opRow? r.op = none := List.getElem?_eq_none (Nat.le_of_not_lt hn)
    simp [Record.unitClass?, hrow] at h
  obtain ⟨i, hi⟩ := Record.exists_instr?_of_lt hop
  exact ⟨i, hi, (Record.unitClass?_of_instr? hi).symm.trans h⟩

/-- The immediate of a load or a store is that of its record (R83, R91). -/
theorem Record.immOf_of_instr? {r : Record} {i : Instr} (h : r.instr? = some i)
    (hi : isLoad i = true ∨ isStore i = true) : immOf i = r.imm := by
  have huses : usesImm i = true := by
    cases i <;> simp [isLoad, isStore] at hi <;> rfl
  exact (((Record.instr?_eq_some_iff 0).1 h).2.imm huses).symm

/-- A busy entry of `LOAD_B` is a load or a store (R36). -/
theorem State.Placed.memory {s : State} {k : Nat} (h : s.Placed ⟨.loadB, k⟩) :
    ∃ i, (s.entry ⟨.loadB, k⟩).instr.instr? = some i ∧ (isLoad i = true ∨ isStore i = true) := by
  obtain ⟨c, hc, hp⟩ := Option.map_eq_some_iff.1 h.pool
  obtain ⟨i, hi, hci⟩ := Record.exists_instr?_of_unitClass? hc
  cases c <;> cases hp
  exact ⟨i, hi, isMemory_of_classOf? hci⟩

/-! ## The whole phase -/

/-- An entry with its address (R122). -/
def RsEntry.addressed (e : RsEntry) : RsEntry := { e with addr := e.op1.value + e.instr.imm, addrKnown := true }

/-- The ROB slot `x` of a store with the address of its entry `e` (R122). -/
def RobSlot.addressedBy (x : RobSlot) (e : RsEntry) : RobSlot :=
  { x with addr := e.op1.value + e.instr.imm, addrKnown := true }

/-- Entry `k` of `LOAD_B` is a store that needs its address. -/
def State.StoreNeedsAddress (s : State) (k : Nat) : Prop :=
  (s.entry ⟨.loadB, k⟩).NeedsAddress ∧ (s.entry ⟨.loadB, k⟩).instr.opIsStore = true

/-- From `s` to `t` the entries of `LOAD_B` listed in `l` that need their address got it, each such store's ROB slot
too, and nothing but the turn changed besides (R122). -/
structure State.Addresses (s t : State) (l : List Nat) : Prop where
  entry : ∀ q, t.entry q =
    if (q.pool = .loadB ∧ q.idx ∈ l) ∧ (s.entry q).NeedsAddress then (s.entry q).addressed else s.entry q
  store : ∀ k ∈ l, s.StoreNeedsAddress k → t.slot (s.entry ⟨.loadB, k⟩).tagD =
    (s.slot (s.entry ⟨.loadB, k⟩).tagD).addressedBy (s.entry ⟨.loadB, k⟩)
  other : ∀ u, (∀ k ∈ l, s.StoreNeedsAddress k → (s.entry ⟨.loadB, k⟩).tagD ≠ u) → t.slot u = s.slot u
  rest : s.SameExcept t [.rob, .rs, .turn]

theorem State.Addresses.withTurn (s : State) (τ : Turn) {l : List Nat}
    (h : ∀ k ∈ l, ¬ (s.entry ⟨.loadB, k⟩).NeedsAddress) : s.Addresses (s.withTurn τ) l where
  entry q := by
    rw [if_neg fun hq => ?_]
    · rfl
    · obtain ⟨p, k⟩ := q
      obtain ⟨⟨rfl, hk⟩, hn⟩ := hq
      exact h k hk hn
  store k hk hn := absurd hn.1 (h k hk)
  other _ _ := rfl
  rest p hp := by cases p <;> simp [Part.same, State.withTurn] at hp ⊢

theorem State.generateAddress_sameExcept (s : State) (k : Nat) (imm : Word) (st : Bool) :
    s.SameExcept (s.generateAddress k imm st) [.rob, .rs, .turn] := by
  intro p hp
  cases h : (s.entry ⟨.loadB, k⟩).wantsAddress
  · rw [State.generateAddress_skip h]
    cases p <;> rfl
  · cases st
    · rw [State.generateAddress_load h]
      cases p <;> simp [Part.same] at hp ⊢
    · rw [State.generateAddress_store h]
      cases p <;> simp [Part.same] at hp ⊢

/-- The address generation of one entry, in the words of the rule. -/
theorem State.generateAddress_addresses {s : State} {k : Nat} {i : Instr}
    (hi : (s.entry ⟨.loadB, k⟩).instr.instr? = some i) (hm : isLoad i = true ∨ isStore i = true)
    (hn : (s.entry ⟨.loadB, k⟩).NeedsAddress) (ht : (s.entry ⟨.loadB, k⟩).tagD < s.rob.slots.length) :
    s.Addresses (s.generateAddress k (immOf i) (isStore i)) [k] := by
  have hw := (RsEntry.wantsAddress_iff _).2 hn
  have himm := Record.immOf_of_instr? hi hm
  have hst : (s.entry ⟨.loadB, k⟩).instr.opIsStore = isStore i := Record.opIsStore_of_instr? hi
  refine ⟨fun q => ?_, fun k' hk' hs => ?_, fun u hu => ?_, s.generateAddress_sameExcept k _ _⟩
  · rw [State.entry_generateAddress hw, himm]
    by_cases hq : q = ⟨.loadB, k⟩
    · subst hq
      rw [if_pos rfl, if_pos ⟨⟨rfl, List.mem_singleton.2 rfl⟩, hn⟩]
      rfl
    · have hne : ¬ (q.pool = .loadB ∧ q.idx ∈ [k]) := by
        obtain ⟨p, k'⟩ := q
        rintro ⟨rfl, hk'⟩
        exact hq (congrArg (RsRef.mk .loadB) (List.mem_singleton.1 hk'))
      rw [if_neg hq, if_neg fun hx => hne hx.1]
  · obtain rfl := List.mem_singleton.1 hk'
    rw [State.slot_generateAddress hw ht, if_pos ⟨hst ▸ hs.2, rfl⟩, himm]
    rfl
  · rw [State.slot_generateAddress hw ht]
    refine if_neg fun hx => hu k (List.mem_singleton.2 rfl) ⟨hn, hst.trans hx.1⟩ hx.2.symm

theorem State.Addresses.cons {s u t : State} {k : Nat} {l : List Nat} (hk : k ∉ l) (hs : s.Fit) (hp : s.PoolsOk)
    (h : s.Addresses u [k]) (h' : u.Addresses t l) : s.Addresses t (k :: l) := by
  have hsame (q : RsRef) (hq : q ≠ ⟨.loadB, k⟩) : u.entry q = s.entry q := by
    obtain ⟨p, k'⟩ := q
    refine (h.entry _).trans (if_neg ?_)
    rintro ⟨⟨rfl, hk'⟩, -⟩
    exact hq (congrArg (RsRef.mk .loadB) (List.mem_singleton.1 hk'))
  have hsame' (k' : Nat) (hk' : k' ∈ l) : u.entry ⟨.loadB, k'⟩ = s.entry ⟨.loadB, k'⟩ :=
    hsame _ fun he => hk ((RsRef.mk.inj he).2 ▸ hk')
  have hneed (k' : Nat) (hk' : k' ∈ l) : u.StoreNeedsAddress k' ↔ s.StoreNeedsAddress k' := by
    rw [State.StoreNeedsAddress, hsame' k' hk']
    rfl
  have htag (k' : Nat) (hk' : k' ∈ l) (hn : s.StoreNeedsAddress k) (hn' : s.StoreNeedsAddress k') :
      (s.entry ⟨.loadB, k'⟩).tagD ≠ (s.entry ⟨.loadB, k⟩).tagD := fun he =>
    hk ((RsRef.mk.inj (((State.poolsOk_iff hs).1 hp).2 _ _ hn'.1.1 hn.1.1 he)).2 ▸ hk')
  refine ⟨fun q => ?_, fun k' hk' hn => ?_, fun v hv => ?_, h.rest.trans h'.rest⟩
  · rw [h'.entry]
    by_cases hq : q = ⟨.loadB, k⟩
    · subst hq
      rw [if_neg fun hx => hk hx.1.2, h.entry]
      simp
    · have hidx : q.pool = .loadB → q.idx ≠ k := fun hpool he => hq (by rw [← hpool, ← he])
      rw [hsame q hq]
      refine if_congr (and_congr_left fun _ => and_congr_right fun hpool => ?_) rfl rfl
      simp [hidx hpool]
  · obtain rfl | hk' := List.mem_cons.1 hk'
    · rw [h'.other _ fun j hj hnj => ?_, h.store k' (List.mem_singleton.2 rfl) hn]
      rw [hsame' j hj]
      exact htag j hj hn ((hneed j hj).1 hnj)
    · rw [← hsame' k' hk', h'.store k' hk' ((hneed k' hk').2 hn), hsame' k' hk', h.other _ fun j hj hnj => ?_]
      rw [List.mem_singleton.1 hj] at hnj ⊢
      exact (htag k' hk' hnj hn).symm
  · rw [h'.other v fun j hj hnj => ?_, h.other v fun j hj => hv j (List.mem_cons.2 (.inl (List.mem_singleton.1 hj)))]
    rw [hsame' j hj]
    exact hv j (List.mem_cons_of_mem k hj) ((hneed j hj).1 hnj)

/-- The turn of entry `k` in X1. -/
theorem addressEntry_addresses {s : State} (hs : s.Fit) (hp : s.PoolsOk) (k : Nat) :
    ∃ t, addressEntry k s = .next t ∧ s.Addresses t [k] := by
  have hskip (hn : ¬ (s.entry ⟨.loadB, k⟩).NeedsAddress) (τ : Turn) : s.Addresses (s.withTurn τ) [k] :=
    .withTurn s τ fun k' hk' => List.mem_singleton.1 hk' ▸ hn
  cases hb : (s.entry ⟨.loadB, k⟩).busy
  · refine ⟨s, by simp [addressEntry, hb], hskip ?_ s.turn⟩
    rintro ⟨hb', -⟩
    exact Bool.noConfusion (hb.symm.trans hb')
  · have hplaced := ((State.poolsOk_iff hs).1 hp).1 _ hb
    obtain ⟨i, hi, hm⟩ := hplaced.memory
    refine ⟨(s.atPhase (.address k)).generateAddress k (immOf i) (isStore i), ?_, ?_⟩
    · rw [addressEntry, if_pos hb, visit_eq hi, exec_at_address rfl, if_pos (by simpa using hm)]
    · by_cases hn : (s.entry ⟨.loadB, k⟩).NeedsAddress
      · have hlt := hs.slotCount ▸ ((State.mem_liveTags_iff hs).1 hplaced.live).1
        have h := State.generateAddress_addresses (s := s.atPhase (.address k)) hi hm hn hlt
        exact ⟨h.entry, h.store, h.other, (State.Addresses.withTurn s _ (l := []) nofun).rest.trans h.rest⟩
      · rw [State.generateAddress_skip (s := s.atPhase (.address k))
          (Bool.eq_false_iff.2 fun hw => hn ((RsEntry.wantsAddress_iff _).1 hw))]
        exact hskip hn _

theorem addressEntries_address {l : List Nat} (hl : l.Nodup) :
    ∀ s : State, s.Fit → s.PoolsOk → s.fault = .noFault →
      ∃ t, forEach addressEntry l s = .next t ∧ s.Addresses t l := by
  induction l with
  | nil => exact fun s _ _ _ => ⟨s, rfl, .withTurn s s.turn nofun⟩
  | cons k l ih =>
    intro s hs hp hf
    obtain ⟨hk, hl⟩ := List.nodup_cons.1 hl
    obtain ⟨u, hu, hsu⟩ := addressEntry_addresses hs hp k
    have hr := addressEntry_run hu
    have hfit := State.stepKeeps_fit.run hs hr
    have huf : u.fault = .noFault := (hsu.rest .fault (by decide)).trans hf
    obtain ⟨t, ht, hut⟩ := ih hl u hfit (hr.frame.poolsOk hs hfit hp) huf
    refine ⟨t, ?_, hsu.cons hk hs hp hut⟩
    rw [forEach_cons, hu, andThen_next, if_pos huf, ht]

/-- The turn of one load or store in X1, in the words of the rule (R122). -/
theorem exec_address {s : State} {i : Instr} {k : Nat} (hp : s.turn.phase = .address k)
    (hi : isLoad i = true ∨ isStore i = true) : exec i s = .next (s.generateAddress k (immOf i) (isStore i)) := by
  rw [exec_at_address hp, if_pos (by simpa using hi)]

/-- Settles O11: one turn is the address generation, and every entry of `LOAD_B` has its turn. -/
theorem addressIsBasePlusImmediate : Obligations.AddressIsBasePlusImmediate := by
  unfold Obligations.AddressIsBasePlusImmediate
  refine ⟨?_, fun s hs hp hf => ?_⟩
  · rintro s i k hphase hi e rfl
    rw [exec_address hphase hi]
    refine ⟨fun hn => ?_, fun hn => ?_⟩
    · have hw := (RsEntry.wantsAddress_iff _).2 hn
      cases hst : isStore i
      · rw [State.generateAddress_load hw]
        rfl
      · rw [State.generateAddress_store hw]
        rfl
    · rw [State.generateAddress_skip (Bool.eq_false_iff.2 fun hw => hn ((RsEntry.wantsAddress_iff _).1 hw))]
  · have hfit := State.runnable_iff_fit.1 hs
    obtain ⟨t, ht, h⟩ := addressEntries_address List.nodup_range s hfit hp hf
    have hframe := (addressPhase_run ht).frame
    have hmem (q : RsRef) (hpool : q.pool = .loadB) (hn : (s.entry q).NeedsAddress) :
        q.idx ∈ List.range (s.cfg.rsSize.get .loadB) := by
      have hlt := State.entry_lt_of_busy hn.1
      rw [hfit.poolSize, hpool] at hlt
      exact List.mem_range.2 hlt
    refine ⟨t, ht, fun q => ?_, ?_, fun u hu => h.other u fun k _ hn => hu k _ rfl hn.1 hn.2, hframe.head,
      hframe.tail, hframe.count, h.rest⟩
    · rw [h.entry]
      exact if_congr ⟨fun hq => ⟨hq.1.1, hq.2⟩, fun hq => ⟨⟨hq.1, hmem q hq.1 hq.2⟩, hq.2⟩⟩ rfl rfl
    · rintro k e rfl hn hst
      exact h.store k (hmem ⟨.loadB, k⟩ rfl hn) ⟨hn, hst⟩

end Sys2Proof.Machine
end

section
/-! PROOFS. The whole of X2 (41:R130 to R137): the queues of the classes, the turns along a queue, and the classes in
their order. -/

namespace Sys2Proof.Machine

/-! ## Filling units from a queue -/

theorem fillLanes_full {ls : List Lane} (h : ∀ l ∈ ls, l.busy = true) (lat : Nat) (q : List RsRef) :
    fillLanes lat ls q = ls := by
  induction ls with
  | nil => cases q <;> rfl
  | cons l ls ih => rw [fillLanes_busy (h l (by simp)), ih fun x hx => h x (by simp [hx])]

/-- One entry takes the lowest free lane. -/
theorem fillLanes_one {ls : List Lane} {lat j : Nat} {x : Lane} (hx : ls[j]? = some x) (hfree : x.busy = false)
    (hlow : ∀ m < j, ∀ y, ls[m]? = some y → y.busy = true) (r : RsRef) :
    fillLanes lat ls [r] = ls.set j ⟨true, r, lat, 0, false, false⟩ := by
  induction ls generalizing j with
  | nil => simp at hx
  | cons l ls ih =>
    cases j with
    | zero =>
      obtain rfl : l = x := by simpa using hx
      rw [fillLanes_free hfree, fillLanes_empty, List.set_cons_zero]
    | succ j =>
      rw [fillLanes_busy (hlow 0 (Nat.succ_pos j) l rfl), List.set_cons_succ,
        ih hx fun m hm y hy => hlow (m + 1) (Nat.succ_lt_succ hm) y (by simpa using hy)]

/-- A queue may be served in two parts. -/
theorem fillLanes_append (lat : Nat) (ls : List Lane) (q q' : List RsRef) :
    fillLanes lat ls (q ++ q') = fillLanes lat (fillLanes lat ls q) q' := by
  induction ls generalizing q with
  | nil => cases q <;> cases q' <;> rfl
  | cons l ls ih =>
    cases hl : l.busy
    · cases q with
      | nil => rw [List.nil_append, fillLanes_empty]
      | cons r q => rw [List.cons_append, fillLanes_free hl, fillLanes_free hl, fillLanes_busy rfl, ih]
    · rw [fillLanes_busy hl, fillLanes_busy hl, fillLanes_busy hl, ih]

/-- The free lanes of a list. -/
def freeLanes (ls : List Lane) : Nat := (ls.filter fun l => !l.busy).length

theorem freeLanes_fillLanes (lat : Nat) (ls : List Lane) (q : List RsRef) :
    freeLanes (fillLanes lat ls q) = freeLanes ls - q.length := by
  unfold freeLanes
  induction ls generalizing q with
  | nil => cases q <;> simp [fillLanes]
  | cons l ls ih =>
    cases hl : l.busy
    · cases q with
      | nil => simp
      | cons r q => simp [fillLanes_free hl, hl, ih]
    · simp [fillLanes_busy hl, hl, ih]

theorem fillByp_one {bs : List BypSlot} {j : Nat} {x : BypSlot} (hx : bs[j]? = some x) (hfree : x.busy = false)
    (hlow : ∀ m < j, ∀ y, bs[m]? = some y → y.busy = true) (r : RsRef × Word) :
    fillByp bs [r] = bs.set j ⟨true, r.1, r.2, false⟩ := by
  induction bs generalizing j with
  | nil => simp at hx
  | cons b bs ih =>
    cases j with
    | zero =>
      obtain rfl : b = x := by simpa using hx
      rw [fillByp_free hfree, fillByp_empty, List.set_cons_zero]
    | succ j =>
      rw [fillByp_busy (hlow 0 (Nat.succ_pos j) b rfl), List.set_cons_succ,
        ih hx fun m hm y hy => hlow (m + 1) (Nat.succ_lt_succ hm) y (by simpa using hy)]

theorem fillByp_append (bs : List BypSlot) (q q' : List (RsRef × Word)) :
    fillByp bs (q ++ q') = fillByp (fillByp bs q) q' := by
  induction bs generalizing q with
  | nil => cases q <;> cases q' <;> rfl
  | cons b bs ih =>
    cases hb : b.busy
    · cases q with
      | nil => rw [List.nil_append, fillByp_empty]
      | cons r q => rw [List.cons_append, fillByp_free hb, fillByp_free hb, fillByp_busy rfl, ih]
    · rw [fillByp_busy hb, fillByp_busy hb, fillByp_busy hb, ih]

/-! ## The queue of a class (R14, R130) -/

theorem State.mem_entriesOldestFirst_iff {s : State} (hs : s.Fit) {c : UnitClass} {q : RsRef} :
    q ∈ s.entriesOldestFirst c ↔
      q ∈ s.entryRefs ∧ q.pool = c.pool ∧ (s.entry q).busy = true ∧ (s.entry q).instr.unitClass? = some c := by
  have htag : (s.entry q).tagD < s.cfg.robSize := ((RsEntry.inRange_iff _ _).1 (hs.entryTags q)).2.2
  simp only [State.entriesOldestFirst, State.entriesOfTag, State.tagsFrom, List.mem_flatMap, List.mem_filter,
    List.mem_map, List.mem_range, Bool.and_eq_true, beq_iff_eq, State.mem_entryRefs]
  constructor
  · rintro ⟨t, -, ⟨k, hk, rfl⟩, ⟨hb, hc⟩, -⟩
    exact ⟨hk, rfl, hb, hc⟩
  · rintro ⟨hk, hp, hb, hc⟩
    have hage : s.age (s.entry q).tagD < s.cfg.robSize := Nat.mod_lt _ (Config.robSize_pos hs.wf)
    exact ⟨_, ⟨_, hage, State.tag_age hs htag⟩, ⟨q.idx, hp ▸ hk, by rw [← hp]⟩, ⟨hb, hc⟩, rfl⟩

theorem State.entriesOldestFirst_sorted {s : State} (hs : s.Fit) (hp : s.PoolsOk) (c : UnitClass) :
    (s.entriesOldestFirst c).Pairwise fun x y => s.age (s.entry x).tagD < s.age (s.entry y).tagD := by
  have htag (t : Nat) (q : RsRef) (hq : q ∈ s.entriesOfTag c t) : (s.entry q).busy = true ∧ (s.entry q).tagD = t := by
    simp only [State.entriesOfTag, List.mem_filter, Bool.and_eq_true, beq_iff_eq] at hq
    exact ⟨hq.2.1.1, hq.2.2⟩
  refine List.pairwise_flatMap.2 ⟨fun t _ => ?_, ?_⟩
  · have hnodup : (s.entriesOfTag c t).Nodup :=
      (List.nodup_range.map fun _ _ he => (RsRef.mk.inj he).2).filter _
    refine hnodup.pairwise_of_forall_ne fun x hx y hy hne => absurd ?_ hne
    obtain ⟨hbx, htx⟩ := htag t x hx
    obtain ⟨hby, hty⟩ := htag t y hy
    exact ((State.poolsOk_iff hs).1 hp).2 x y hbx hby (htx.trans hty.symm)
  · refine List.pairwise_map.2 (List.pairwise_lt_range.imp_of_mem fun hi hj hij x hx y hy => ?_)
    rw [(htag _ x hx).2, (htag _ y hy).2, State.age_tag hs (List.mem_range.1 hi),
      State.age_tag hs (List.mem_range.1 hj)]
    exact hij

/-- The entries of `l` a dispatch turn may start. -/
def State.ready (s : State) (l : List RsRef) : List RsRef := l.filter fun q => (s.entry q).eligible

/-- The entries X2 offers a lane of class `c`, oldest first. -/
def State.readyQueue (s : State) (c : UnitClass) : List RsRef := s.ready (s.entriesOldestFirst c)

theorem State.mem_readyQueue_iff {s : State} (hs : s.Fit) {c : UnitClass} {q : RsRef} :
    q ∈ s.readyQueue c ↔ q ∈ s.entryRefs ∧ s.Offered c q := by
  rw [State.readyQueue, State.ready, List.mem_filter, State.mem_entriesOldestFirst_iff hs, RsEntry.eligible_iff]
  constructor
  · rintro ⟨⟨hm, hp, -, hc⟩, he⟩
    exact ⟨hm, hp, hc, he⟩
  · rintro ⟨hm, hp, hc, he⟩
    exact ⟨⟨hm, hp, he.1, hc⟩, he⟩

/-- The entries of a class in the order of their age are one list. -/
theorem State.Queue.eq_readyQueue {s : State} (hs : s.Fit) (hp : s.PoolsOk) {c : UnitClass} {q : List RsRef}
    (h : s.Queue c q) : q = s.readyQueue c := by
  obtain ⟨hsorted, hrefs, hmem⟩ := h
  have hirrefl : Std.Irrefl fun x y : RsRef => s.age (s.entry x).tagD < s.age (s.entry y).tagD :=
    ⟨fun _ => lt_irrefl _⟩
  refine List.Pairwise.eq_of_mem_iff hsorted ((State.entriesOldestFirst_sorted hs hp c).filter _) fun ref => ?_
  refine Iff.trans ?_ (State.mem_readyQueue_iff hs).symm
  exact ⟨fun hq => ⟨hrefs ref hq, (hmem ref (hrefs ref hq)).1 hq⟩, fun hq => (hmem ref hq.1).2 hq.2⟩

end Sys2Proof.Machine
end

section
/-! PROOFS. X2 along the queue of a class, and the classes in their order (41:R130 to R137): what each turn takes from
the free units adds up to what the queue takes. -/

namespace Sys2Proof.Machine

/-! ## What starting entries leaves alone -/

namespace State.Starts

variable {s t : State} {refs : List RsRef}

/-- Which entries are listed matters, not their order. -/
theorem congr {refs' : List RsRef} (h : s.Starts t refs) (hr : ∀ q, q ∈ refs ↔ q ∈ refs') : s.Starts t refs' :=
  { h with
    entry := fun q => by simp only [h.entry, hr]
    slot := fun u => by simp only [h.slot, hr] }

theorem entry_of_not_mem (h : s.Starts t refs) {q : RsRef} (hq : q ∉ refs) : t.entry q = s.entry q := by
  rw [h.entry, decide_eq_false hq, Bool.or_false]

theorem entriesOldestFirst (h : s.Starts t refs) (c : UnitClass) : t.entriesOldestFirst c = s.entriesOldestFirst c := by
  have htags : t.entriesOfTag c = s.entriesOfTag c := by
    funext u
    simp only [State.entriesOfTag, h.cfg, h.entry]
  simp only [State.entriesOldestFirst, State.tagsFrom, h.cfg, h.head, htags]

theorem slot_sameWords (h : s.Starts t refs) (u : Nat) : (s.slot u).SameWords (t.slot u) := by
  rw [h.slot]
  split_ifs <;> exact ⟨rfl, rfl, rfl, rfl, rfl, rfl⟩

end State.Starts

/-- The scan reads of a slot only the words. -/
theorem scanStores_congr {f g : Nat → RobSlot} (h : ∀ u, (f u).SameWords (g u)) (a : Word) (l : List Nat) :
    scanStores a (l.map g) = scanStores a (l.map f) := by
  induction l with
  | nil => rfl
  | cons u l ih =>
    obtain ⟨hi, hr, hv, ha, hk, -⟩ := h u
    simp only [List.map_cons, scanStores, hi, hr, hv, ha, hk, ih]

theorem State.Starts.disambiguate {s t : State} {refs : List RsRef} (h : s.Starts t refs) (e : RsEntry) :
    t.disambiguate e = s.disambiguate e := by
  have hlive : t.liveTags = s.liveTags := by
    simp only [State.liveTags, State.tagsFrom, h.cfg, h.head, h.count]
  simp only [State.disambiguate, State.olderTags, hlive, scanStores_congr h.slot_sameWords]

/-! ## One turn -/

/-- A state in X2 that has not faulted. -/
structure State.InX2 (s : State) : Prop where
  fault : s.fault = .noFault
  fit : s.Fit
  pools : s.PoolsOk
  slots : s.SlotsOk

theorem State.InX2.run {s t : State} (h : s.InX2) (hr : ExecRun s t) (hf : t.fault = .noFault) : t.InX2 := by
  obtain ⟨hfit, hpools, hslots⟩ : t.Fit ∧ t.PoolsOk ∧ t.SlotsOk := by
    refine hr.keeps (P := fun u => u.Fit ∧ u.PoolsOk ∧ u.SlotsOk) (fun u v hu hc => ?_) ⟨h.fit, h.pools, h.slots⟩
    obtain ⟨hfit, hpools, hslots⟩ := hu
    have hv := hfit.execChange hc
    exact ⟨hv, hc.frame.poolsOk hfit hv hpools, hc.slotsOk hfit hslots⟩
  exact ⟨hf, hfit, hpools, hslots⟩

/-- From `s` to `t` the free lanes of class `c` were filled from `q`, the free bypass slots from `b`, and the entries
that got one were started. -/
structure State.Fills (s t : State) (c : UnitClass) (q : List RsRef) (b : List (RsRef × Word)) : Prop where
  lanes : t.lanes.get c = fillLanes (s.cfg.lat.get c) (s.lanes.get c) q
  otherLanes : ∀ d, d ≠ c → t.lanes.get d = s.lanes.get d
  byp : t.byp = fillByp s.byp b
  starts : s.Starts t (q.take (freeLanes (s.lanes.get c)) ++ b.map Prod.fst)
  fault : t.fault = s.fault

namespace State.Fills

variable {s t u : State} {c : UnitClass} {q q' : List RsRef} {b b' : List (RsRef × Word)}

theorem withTurn (s : State) (c : UnitClass) (τ : Turn) : s.Fills (s.withTurn τ) c [] [] where
  lanes := (fillLanes_empty _ _).symm
  otherLanes _ _ := rfl
  byp := (fillByp_empty _).symm
  starts := by
    rw [List.take_nil]
    exact .withTurn s τ
  fault := rfl

theorem trans (h : s.Fills t c q b) (h' : t.Fills u c q' b') : s.Fills u c (q ++ q') (b ++ b') where
  lanes := by rw [h'.lanes, h.lanes, h.starts.cfg, fillLanes_append]
  otherLanes d hd := (h'.otherLanes d hd).trans (h.otherLanes d hd)
  byp := by rw [h'.byp, h.byp, fillByp_append]
  starts := by
    have hst := h'.starts
    rw [h.lanes, freeLanes_fillLanes] at hst
    refine (h.starts.trans hst).congr fun r => ?_
    rw [List.take_append, List.map_append]
    simp only [List.mem_append]
    tauto
  fault := h'.fault.trans h.fault

/-- Where no lane is free, a queue takes none. -/
theorem of_full (h : s.Fills t c q b) (hfull : ∀ l ∈ s.lanes.get c, l.busy = true) (q' : List RsRef) :
    s.Fills t c q' b := by
  have hnone : freeLanes (s.lanes.get c) = 0 := by
    simpa [freeLanes] using hfull
  refine ⟨?_, h.otherLanes, h.byp, ?_, h.fault⟩
  · rw [h.lanes, fillLanes_full hfull, fillLanes_full hfull]
  · have hst := h.starts
    rw [hnone] at hst ⊢
    exact hst

end State.Fills

theorem State.freeLane_full {s : State} {c : UnitClass} (h : s.freeLane c = none) :
    ∀ l ∈ s.lanes.get c, l.busy = true := fun l hl => by simpa using firstIdx_none h l hl

theorem freeLanes_pos {ls : List Lane} {j : Nat} {x : Lane} (hx : ls[j]? = some x) (hfree : x.busy = false) :
    0 < freeLanes ls :=
  List.length_pos_of_mem (List.mem_filter.2 ⟨List.mem_of_getElem? hx, by simp [hfree]⟩)

/-- The lowest free lane of a class takes the entry (R131). -/
theorem State.Fills.startLane {s : State} {c : UnitClass} {ref : RsRef} {j : Nat} (hb : (s.entry ref).busy = true)
    (hj : s.freeLane c = some j) :
    s.Fills ((s.setLane c j ⟨true, ref, s.cfg.lat.get c, 0, false, false⟩).markExecuting ref) c [ref] [] := by
  obtain ⟨-, x, hx, hp, hlow⟩ := firstIdx_spec hj
  rw [Nat.sub_zero] at hx hlow
  have hfree : x.busy = false := by simpa using hp
  refine ⟨?_, fun d hd => PerClass.get_set_other _ _ _ _ hd, (fillByp_empty _).symm, ?_, rfl⟩
  · rw [fillLanes_one hx hfree fun m hm y hy => by simpa using hlow m hm y hy]
    exact PerClass.get_set_same _ _ _
  · rw [List.take_of_length_le (by exact freeLanes_pos hx hfree)]
    exact (State.Starts.setLane s c j _).trans (.markExecuting hb)

/-- The lowest free bypass slot takes the entry with its data (R132). -/
theorem State.Fills.startBypass {s : State} {ref : RsRef} {j : Nat} (hb : (s.entry ref).busy = true)
    (hj : s.freeByp = some j) (v : Word) :
    s.Fills ((s.setByp j ⟨true, ref, v, false⟩).markExecuting ref) .memory [] [(ref, v)] := by
  obtain ⟨-, x, hx, hp, hlow⟩ := firstIdx_spec hj
  rw [Nat.sub_zero] at hx hlow
  refine ⟨(fillLanes_empty _ _).symm, fun _ _ => rfl, ?_, ?_, rfl⟩
  · exact (fillByp_one hx (by simpa using hp) (fun m hm y hy => by simpa using hlow m hm y hy) (ref, v)).symm
  · rw [List.take_nil]
    exact (State.Starts.setByp s j _).trans (.markExecuting hb)

theorem State.Fills.dispatchTimed {s : State} {ref : RsRef} (hb : (s.entry ref).busy = true) (c : UnitClass) :
    s.Fills (s.dispatchTimed c ref) c [ref] [] := by
  cases hj : s.freeLane c with
  | none =>
    rw [State.dispatchTimed_none hj]
    exact (State.Fills.withTurn s c s.turn).of_full (State.freeLane_full hj) [ref]
  | some j =>
    rw [State.dispatchTimed_some hj]
    exact .startLane hb hj

theorem State.Fills.dispatchBypass {s : State} (h : s.InX2) {ref : RsRef} (hp : ref.pool = .loadB)
    (he : (s.entry ref).eligible = true) (v : Word) : s.Fills (s.dispatchBypass ref v) .memory [] [(ref, v)] := by
  obtain ⟨p, k⟩ := ref
  obtain rfl : p = .loadB := hp
  obtain ⟨j, hj⟩ := State.exists_freeByp h.fit h.slots he
  rw [State.dispatchBypass_some hj]
  exact .startBypass (RsEntry.busy_of_eligible he) hj v

/-- The turn of an instruction of a class other than `MEMORY` (R131). -/
theorem dispatchEntry_alu {s : State} {c : UnitClass} {ref : RsRef} (hm : c ≠ .memory)
    (hc : (s.entry ref).instr.unitClass? = some c) :
    dispatchEntry ref s = .next ((s.atPhase (.dispatch ref)).dispatchAlu c ref) := by
  obtain ⟨i, hi, hci⟩ := Record.exists_instr?_of_unitClass? hc
  rw [dispatchEntry, visit_eq hi, exec_dispatchAlu rfl hci hm]

/-- The turn of an eligible load or store: into a bypass slot with its data, to memory, or it waits (R132, R133). -/
theorem dispatchEntry_memory {s : State} (h : s.InX2) {ref : RsRef}
    (hc : (s.entry ref).instr.unitClass? = some .memory) (he : (s.entry ref).eligible = true) :
    (∃ v, s.bypassData ref = some v ∧ s.needsMemory ref = false ∧
      dispatchEntry ref s = .next ((s.atPhase (.dispatch ref)).dispatchBypass ref v)) ∨
    (s.bypassData ref = none ∧ s.needsMemory ref = true ∧
      dispatchEntry ref s = .next ((s.atPhase (.dispatch ref)).dispatchMemory ref)) ∨
    (s.bypassData ref = none ∧ s.needsMemory ref = false ∧
      dispatchEntry ref s = .next (s.atPhase (.dispatch ref))) := by
  obtain ⟨i, hi, hci⟩ := Record.exists_instr?_of_unitClass? hc
  have hst := Record.opIsStore_of_instr? hi
  have he' : ((s.atPhase (.dispatch ref)).entry ref).eligible = true := he
  rw [dispatchEntry, visit_eq hi, State.bypassData, State.needsMemory, hst]
  obtain hl | hs := isMemory_of_classOf? hci
  · have hnot := isStore_of_isLoad hl
    have hdis : (s.atPhase (.dispatch ref)).disambiguate ((s.atPhase (.dispatch ref)).entry ref) =
      s.disambiguate (s.entry ref) := rfl
    rw [exec_dispatchLoad rfl hl]
    obtain ⟨hn, -⟩ | ⟨-, ⟨hd, -⟩ | ⟨hd, hx⟩ | ⟨v, hd, hx⟩ | ⟨hd, hx⟩⟩ :=
      (s.atPhase (.dispatch ref)).dispatchLoad_cases ref
    · exact Bool.noConfusion (hn.symm.trans he')
    · have hplaced := ((State.poolsOk_iff h.fit).1 h.pools).1 ref (RsEntry.busy_of_eligible he)
      exact absurd hplaced.live (State.disambiguate_eq_notLive _ hd)
    · rw [hdis] at hd
      simp [hnot, hd, hx]
    · rw [hdis] at hd
      simp [hnot, hd, hx]
    · rw [hdis] at hd
      simp [hnot, hd, hx]
  · rw [exec_dispatchStore rfl hs, State.dispatchStore, if_pos he']
    simp [hs]

end Sys2Proof.Machine
end

section
/-! PROOFS. X2 along the queue of a class (41:R130 to R134): the turns add up to filling the free units from the
eligible entries of the queue, in its order. -/

namespace Sys2Proof.Machine

theorem State.ready_cons (s : State) (ref : RsRef) (l : List RsRef) :
    s.ready (ref :: l) = s.ready [ref] ++ s.ready l := List.filter_append [ref] l

/-- The entries of the queue `q` that may take a timed lane of class `c` as this X2 goes on (R131, R133, R134). -/
def State.wants (s : State) (c : UnitClass) (q : List RsRef) : List RsRef :=
  if c = .memory ∧ s.turn.memTimedIssued = true then [] else s.wantLane (fun _ => q) c

/-- The entries of the queue `q` of class `c` that take a bypass slot, with their data (R132, R133). -/
def State.wantsByp (s : State) (c : UnitClass) (q : List RsRef) : List (RsRef × Word) :=
  if c = .memory then s.wantBypass fun _ => q else []

section wants

variable {s : State} {ref : RsRef}

@[simp] theorem State.wants_nil (s : State) (c : UnitClass) : s.wants c [] = [] := by
  simp [State.wants, State.wantLane]

@[simp] theorem State.wantsByp_nil (s : State) (c : UnitClass) : s.wantsByp c [] = [] := by
  simp [State.wantsByp, State.wantBypass]

theorem State.wants_alu {c : UnitClass} (hm : c ≠ .memory) (q : List RsRef) : s.wants c q = q := by
  simp [State.wants, State.wantLane, hm]

theorem State.wantsByp_alu {c : UnitClass} (hm : c ≠ .memory) (q : List RsRef) : s.wantsByp c q = [] := if_neg hm

theorem State.wants_memory_held (h : s.memBlock = true ∨ s.turn.memTimedIssued = true) (q : List RsRef) :
    s.wants .memory q = [] := by
  obtain h | h := h <;> simp [State.wants, State.wantLane, h]

theorem State.wants_memory_cons_of_needs (hb : s.memBlock = false) (ht : s.turn.memTimedIssued = false)
    (hn : s.needsMemory ref = true) (q : List RsRef) : s.wants .memory (ref :: q) = [ref] := by
  simp [State.wants, State.wantLane, hb, ht, hn]

theorem State.wants_memory_cons_of_not (hn : s.needsMemory ref = false) (q : List RsRef) :
    s.wants .memory (ref :: q) = s.wants .memory q := by
  simp [State.wants, State.wantLane, hn]

theorem State.wantsByp_memory_cons_of_some {v : Word} (hv : s.bypassData ref = some v) (q : List RsRef) :
    s.wantsByp .memory (ref :: q) = (ref, v) :: s.wantsByp .memory q := by
  simp [State.wantsByp, State.wantBypass, hv]

theorem State.wantsByp_memory_cons_of_none (hv : s.bypassData ref = none) (q : List RsRef) :
    s.wantsByp .memory (ref :: q) = s.wantsByp .memory q := by
  simp [State.wantsByp, State.wantBypass, hv]

end wants

/-- The queue `l` lists entries of class `c`, none twice. -/
structure State.OfClass (s : State) (c : UnitClass) (l : List RsRef) : Prop where
  nodup : l.Nodup
  pool : ∀ q ∈ l, q.pool = c.pool
  inRange : ∀ q ∈ l, q.inRange s.cfg = true
  unitClass : ∀ q ∈ l, (s.entry q).instr.unitClass? = some c

theorem State.OfClass.of_cons {s : State} {c : UnitClass} {ref : RsRef} {l : List RsRef} (h : s.OfClass c (ref :: l)) :
    s.OfClass c l :=
  ⟨h.nodup.of_cons, fun q hq => h.pool q (List.mem_cons_of_mem _ hq),
    fun q hq => h.inRange q (List.mem_cons_of_mem _ hq), fun q hq => h.unitClass q (List.mem_cons_of_mem _ hq)⟩

/-! ## What the turns of other entries leave of a queue -/

namespace State.Starts

variable {s t : State} {refs l : List RsRef} (h : s.Starts t refs)

include h

theorem ofClass {c : UnitClass} (hl : s.OfClass c l) : t.OfClass c l where
  nodup := hl.nodup
  pool := hl.pool
  inRange q hq := h.cfg ▸ hl.inRange q hq
  unitClass q hq := by
    rw [h.entry]
    exact hl.unitClass q hq

theorem needsMemory (q : RsRef) : t.needsMemory q = s.needsMemory q := by
  have hdis : t.disambiguate (t.entry q) = s.disambiguate (s.entry q) := by
    rw [h.disambiguate, h.entry]
    rfl
  rw [State.needsMemory, State.needsMemory, hdis, h.entry]

theorem bypassData (q : RsRef) : t.bypassData q = s.bypassData q := by
  have hdis : t.disambiguate (t.entry q) = s.disambiguate (s.entry q) := by
    rw [h.disambiguate, h.entry]
    rfl
  rw [State.bypassData, State.bypassData, hdis, h.entry]

theorem memBlock : t.memBlock = s.memBlock := h.rest .memBlock (by decide)

theorem ready (hl : ∀ q ∈ l, q ∉ refs) : t.ready l = s.ready l :=
  List.filter_congr fun q hq => by rw [h.entry_of_not_mem (hl q hq)]

theorem wantBypass (q : UnitClass → List RsRef) : t.wantBypass q = s.wantBypass q := by
  simp only [State.wantBypass, h.bypassData]

theorem wantLane (q : UnitClass → List RsRef) (c : UnitClass) : t.wantLane q c = s.wantLane q c := by
  simp only [State.wantLane, h.memBlock, funext h.needsMemory]

theorem wants (hturn : t.turn.memTimedIssued = s.turn.memTimedIssued) (c : UnitClass) (q : List RsRef) :
    t.wants c q = s.wants c q := by
  simp only [State.wants, hturn, h.wantLane]

theorem wantsByp (c : UnitClass) (q : List RsRef) : t.wantsByp c q = s.wantsByp c q := by
  simp only [State.wantsByp, h.wantBypass]

end State.Starts

/-! ## One turn -/

section turn

variable {s : State} {c : UnitClass} {ref : RsRef}

theorem dispatchEntry_of_not_eligible (hc : (s.entry ref).instr.unitClass? = some c)
    (he : (s.entry ref).eligible = false) : dispatchEntry ref s = .next (s.atPhase (.dispatch ref)) := by
  obtain ⟨i, hi, hci⟩ := Record.exists_instr?_of_unitClass? hc
  rw [dispatchEntry, visit_eq hi, exec_at_dispatch rfl, hci]
  simp [State.dispatchLoad, State.dispatchStore, State.dispatchAlu, he]

theorem State.dispatchTimed_turn : (s.dispatchTimed c ref).turn = s.turn := by
  cases hj : s.freeLane c with
  | none => rw [State.dispatchTimed_none hj]
  | some j =>
    rw [State.dispatchTimed_some hj]
    rfl

theorem State.dispatchBypass_turn (v : Word) : (s.dispatchBypass ref v).turn = s.turn := by
  cases hj : s.freeByp with
  | none => rw [State.dispatchBypass_none hj]
  | some j =>
    rw [State.dispatchBypass_some hj]
    rfl

/-- `u` is `s` after the turn of `ref` in X2 of class `c`: the units filled on from `u` for a queue are those filled
from `s` for `first` and then the queue. -/
structure State.TurnOf (s u : State) (c : UnitClass) (ref : RsRef) (first : List RsRef) : Prop where
  starts : ∃ refs, s.Starts u refs ∧ ∀ r ∈ refs, r = ref
  fault : u.fault = s.fault
  timed : c ≠ .memory → u.turn.memTimedIssued = s.turn.memTimedIssued
  fills : ∀ t q, u.Fills t c (u.wants c q) (u.wantsByp c q) →
    s.Fills t c (s.wants c (first ++ q)) (s.wantsByp c (first ++ q))

namespace State.TurnOf

/-- The phase marker is no part of what a turn takes. -/
theorem ofAtPhase {u : State} {first : List RsRef} {p : Phase} (h : (s.atPhase p).TurnOf u c ref first) :
    s.TurnOf u c ref first where
  starts := by
    obtain ⟨refs, hstarts, hrefs⟩ := h.starts
    exact ⟨refs, (State.Starts.withTurn s _).trans hstarts, hrefs⟩
  fault := h.fault
  timed := h.timed
  fills t q hf := (State.Fills.withTurn s c _).trans (h.fills t q hf)

/-- The turn of an entry that has to wait and wants nothing. -/
theorem waits (s : State) (c : UnitClass) (ref : RsRef) : s.TurnOf s c ref [] where
  starts := ⟨[], .refl s, nofun⟩
  fault := rfl
  timed _ := rfl
  fills _ _ := id

theorem alu (hm : c ≠ .memory) (he : (s.entry ref).eligible = true) : s.TurnOf (s.dispatchTimed c ref) c ref [ref] := by
  have hu := State.Fills.dispatchTimed (RsEntry.busy_of_eligible he) c
  refine ⟨⟨_, hu.starts, fun r hr => ?_⟩, hu.fault, fun _ => by rw [State.dispatchTimed_turn], fun t q h => ?_⟩
  · rw [List.map_nil, List.append_nil] at hr
    exact List.mem_singleton.1 (List.mem_of_mem_take hr)
  · simp only [State.wants_alu hm, State.wantsByp_alu hm] at h ⊢
    exact hu.trans h

theorem bypass (hs : s.InX2) (hp : ref.pool = .loadB) (he : (s.entry ref).eligible = true) {v : Word}
    (hv : s.bypassData ref = some v) (hn : s.needsMemory ref = false) :
    s.TurnOf (s.dispatchBypass ref v) .memory ref [ref] := by
  have hu := State.Fills.dispatchBypass hs hp he v
  have hturn : (s.dispatchBypass ref v).turn.memTimedIssued = s.turn.memTimedIssued := by rw [State.dispatchBypass_turn]
  refine ⟨⟨_, hu.starts, fun r hr => by simpa using hr⟩, hu.fault, fun _ => hturn, fun t q h => ?_⟩
  rw [hu.starts.wants hturn, hu.starts.wantsByp] at h
  rw [List.singleton_append, State.wants_memory_cons_of_not hn, State.wantsByp_memory_cons_of_some hv]
  exact hu.trans h

/-- The turn of an eligible load that needs memory (R133, R134). -/
theorem memory (he : (s.entry ref).eligible = true) (hv : s.bypassData ref = none) (hn : s.needsMemory ref = true) :
    s.TurnOf (s.dispatchMemory ref) .memory ref [ref] := by
  obtain ⟨h, hheld⟩ | ⟨j, hb, ht, hj, h⟩ := s.dispatchMemory_cases ref
  · rw [h]
    refine ⟨⟨[], .refl s, nofun⟩, rfl, fun _ => rfl, fun t q hf => ?_⟩
    rw [List.singleton_append, State.wantsByp_memory_cons_of_none hv]
    obtain hheld | hfull := or_assoc.2 hheld
    · rw [State.wants_memory_held hheld] at hf ⊢
      exact hf
    · exact hf.of_full (State.freeLane_full hfull) _
  · obtain ⟨hu, hturn⟩ : s.Fills (s.dispatchMemory ref) .memory [ref] [] ∧
        (s.dispatchMemory ref).turn.memTimedIssued = true := by
      rw [h]
      exact ⟨(State.Fills.startLane (RsEntry.busy_of_eligible he) hj).trans (.withTurn _ _ _), rfl⟩
    refine ⟨⟨_, hu.starts, fun r hr => ?_⟩, hu.fault, fun hm => absurd rfl hm, fun t q hf => ?_⟩
    · rw [List.map_nil, List.append_nil] at hr
      exact List.mem_singleton.1 (List.mem_of_mem_take hr)
    · rw [State.wants_memory_held (.inr hturn), hu.starts.wantsByp] at hf
      rw [List.singleton_append, State.wantsByp_memory_cons_of_none hv, State.wants_memory_cons_of_needs hb ht hn]
      exact hu.trans hf

/-- The turn of an eligible load whose check finds a conflict (R133). -/
theorem conflict (hv : s.bypassData ref = none) (hn : s.needsMemory ref = false) : s.TurnOf s .memory ref [ref] := by
  refine ⟨⟨[], .refl s, nofun⟩, rfl, fun _ => rfl, fun t q hf => ?_⟩
  rw [List.singleton_append, State.wants_memory_cons_of_not hn, State.wantsByp_memory_cons_of_none hv]
  exact hf

end State.TurnOf

theorem State.InX2.dispatchEntry {u : State} {l : List RsRef} (hs : s.InX2) (hl : s.OfClass c (ref :: l))
    (hx : dispatchEntry ref s = .next u) (hu : u.fault = .noFault) : u.InX2 := by
  have href : ref ∈ ref :: l := List.mem_cons_self
  exact hs.run (dispatchEntry_run (hl.pool ref href) (hl.inRange ref href) (hl.unitClass ref href) hx) hu

/-- The turn of an entry takes what the entry wants (R131 to R134). -/
theorem dispatchEntry_turnOf (hs : s.InX2) (hp : ref.pool = c.pool) (hc : (s.entry ref).instr.unitClass? = some c) :
    ∃ u, dispatchEntry ref s = .next u ∧ s.TurnOf u c ref (s.ready [ref]) := by
  have hs' : (s.atPhase (.dispatch ref)).InX2 := hs.run (.turn _ _) hs.fault
  cases he : (s.entry ref).eligible
  · have hnone : s.ready [ref] = [] := List.filter_cons_of_neg (by simp [he])
    rw [hnone]
    exact ⟨_, dispatchEntry_of_not_eligible hc he, .ofAtPhase (.waits _ c ref)⟩
  · have hone : s.ready [ref] = [ref] := List.filter_cons_of_pos he
    have he' : ((s.atPhase (.dispatch ref)).entry ref).eligible = true := he
    rw [hone]
    by_cases hm : c = .memory
    · subst hm
      obtain ⟨v, hv, hn, hx⟩ | ⟨hv, hn, hx⟩ | ⟨hv, hn, hx⟩ := dispatchEntry_memory hs hc he
      · exact ⟨_, hx, .ofAtPhase (.bypass hs' hp he' hv hn)⟩
      · exact ⟨_, hx, .ofAtPhase (.memory he' hv hn)⟩
      · exact ⟨_, hx, .ofAtPhase (.conflict hv hn)⟩
    · have hx := dispatchEntry_alu hm hc
      rw [State.dispatchAlu, if_pos he'] at hx
      exact ⟨_, hx, .ofAtPhase (.alu hm he')⟩

end turn

/-! ## The turns of a queue -/

/-- X2 for the queue `l` of class `c` serves the eligible entries of it in its order. -/
theorem dispatchQueue_fills {c : UnitClass} (l : List RsRef) : ∀ {s : State}, s.InX2 → s.OfClass c l →
    ∃ t, forEach dispatchEntry l s = .next t ∧ t.InX2 ∧
      (c ≠ .memory → t.turn.memTimedIssued = s.turn.memTimedIssued) ∧
      s.Fills t c (s.wants c (s.ready l)) (s.wantsByp c (s.ready l)) := by
  induction l with
  | nil =>
    intro s hs _
    have hready : s.ready [] = [] := rfl
    rw [hready, State.wants_nil, State.wantsByp_nil]
    exact ⟨s, rfl, hs, fun _ => rfl, .withTurn s c s.turn⟩
  | cons ref l ih =>
    intro s hs hl
    obtain ⟨u, hx, hturn⟩ := dispatchEntry_turnOf hs (hl.pool ref List.mem_cons_self)
      (hl.unitClass ref List.mem_cons_self)
    have hn : u.fault = .noFault := hturn.fault.trans hs.fault
    obtain ⟨refs, hstarts, hrefs⟩ := hturn.starts
    have hready : u.ready l = s.ready l :=
      hstarts.ready fun q hq hqr => (List.nodup_cons.1 hl.nodup).1 (hrefs q hqr ▸ hq)
    obtain ⟨t, ht, hit, htimed, hf⟩ := ih (hs.dispatchEntry hl hx hn) (hstarts.ofClass hl.of_cons)
    rw [hready] at hf
    refine ⟨t, ?_, hit, fun hm => (htimed hm).trans (hturn.timed hm), ?_⟩
    · rw [forEach_cons, hx, andThen_next, if_pos hn, ht]
    · rw [State.ready_cons]
      exact hturn.fills t _ hf

/-! ## The classes in their order -/

theorem State.ofClass_entriesOldestFirst {s : State} (hs : s.InX2) (c : UnitClass) :
    s.OfClass c (s.entriesOldestFirst c) where
  nodup := (State.entriesOldestFirst_sorted hs.fit hs.pools c).imp fun h he => (lt_irrefl _ (he ▸ h)).elim
  pool _ hq := (State.mem_entriesOldestFirst hq).1
  inRange _ hq := (State.mem_entriesOldestFirst hq).2.1
  unitClass _ hq := (State.mem_entriesOldestFirst hq).2.2

/-- X2 for one class; the memory class comes before any timed load of the cycle. -/
theorem dispatchClass_fills (c : UnitClass) {s : State} (hs : s.InX2)
    (ht : c = .memory → s.turn.memTimedIssued = false) :
    ∃ t, dispatchClass c s = .next t ∧ t.InX2 ∧ (c ≠ .memory → t.turn.memTimedIssued = s.turn.memTimedIssued) ∧
      s.Fills t c (s.wantLane s.readyQueue c) (s.wantsByp c (s.readyQueue c)) := by
  have hwants : s.wants c (s.readyQueue c) = s.wantLane s.readyQueue c := by
    by_cases hm : c = .memory <;> simp [State.wants, State.wantLane, hm, ht]
  rw [← hwants]
  exact dispatchQueue_fills _ hs (State.ofClass_entriesOldestFirst hs c)

/-- The entries of class `c` that X2 starts from `s`, if it serves the queues `q`. -/
def State.startedOf (s : State) (q : UnitClass → List RsRef) (c : UnitClass) : List RsRef :=
  (s.wantLane q c).take (freeLanes (s.lanes.get c)) ++ (s.wantsByp c (q c)).map Prod.fst

theorem State.mem_startedOf {s : State} {q : UnitClass → List RsRef} {c : UnitClass} {r : RsRef}
    (hr : r ∈ s.startedOf q c) : r ∈ q c := by
  obtain hr | hr := List.mem_append.1 hr
  · have hr := List.mem_of_mem_take hr
    by_cases hm : c = .memory
    · subst hm
      cases hb : s.memBlock <;> simp only [State.wantLane, hb] at hr
      · exact (List.mem_filter.1 (List.mem_of_mem_take hr)).1
      · cases hr
    · rwa [State.wantLane, if_neg hm] at hr
  · obtain ⟨⟨r, v⟩, hrv, rfl⟩ := List.mem_map.1 hr
    by_cases hm : c = .memory
    · subst hm
      obtain ⟨r', hr', hv⟩ := List.mem_filterMap.1 hrv
      obtain ⟨v, -, heq⟩ := Option.map_eq_some_iff.1 hv
      cases heq
      exact hr'
    · rw [State.wantsByp_alu hm] at hrv
      cases hrv

theorem State.wantLane_congr {q q' : UnitClass → List RsRef} {c : UnitClass} (h : q c = q' c) (s : State) :
    s.wantLane q c = s.wantLane q' c := by
  by_cases hm : c = .memory
  · subst hm
    simp only [State.wantLane, h]
  · simp only [State.wantLane, hm, if_false, h]

/-- Serving class `c` leaves the queue of another class, and what it wants. -/
theorem State.Fills.other {s t : State} {c d : UnitClass} (hs : s.InX2) (hd : d ≠ c)
    (h : s.Fills t c (s.wantLane s.readyQueue c) (s.wantsByp c (s.readyQueue c))) :
    t.readyQueue d = s.readyQueue d ∧ t.wantLane t.readyQueue d = s.wantLane s.readyQueue d ∧
      t.startedOf t.readyQueue d = s.startedOf s.readyQueue d := by
  have hst : s.Starts t (s.startedOf s.readyQueue c) := h.starts
  have hqueue : t.readyQueue d = s.readyQueue d := by
    have hready : t.ready (s.entriesOldestFirst d) = s.ready (s.entriesOldestFirst d) := by
      refine hst.ready fun r hr hr' => hd ?_
      have hr' := (State.mem_readyQueue_iff hs.fit).1 (State.mem_startedOf hr')
      exact Option.some.inj ((State.mem_entriesOldestFirst hr).2.2.symm.trans hr'.2.2.1)
    exact (congrArg t.ready (hst.entriesOldestFirst d)).trans hready
  have hwant : t.wantLane t.readyQueue d = s.wantLane s.readyQueue d := by
    rw [hst.wantLane, State.wantLane_congr hqueue]
  refine ⟨hqueue, hwant, ?_⟩
  rw [State.startedOf, State.startedOf, hwant, h.otherLanes d hd, hst.wantsByp, hqueue]

/-- From `s` to `t` the free units of the classes `cs` were filled from the ready entries. -/
structure State.Served (s t : State) (cs : List UnitClass) : Prop where
  lanes : ∀ c, t.lanes.get c =
    if c ∈ cs then fillLanes (s.cfg.lat.get c) (s.lanes.get c) (s.wantLane s.readyQueue c) else s.lanes.get c
  byp : t.byp = fillByp s.byp (cs.flatMap fun c => s.wantsByp c (s.readyQueue c))
  starts : s.Starts t (cs.flatMap (s.startedOf s.readyQueue))
  fault : t.fault = .noFault

/-- Each class has its own entries and lanes, so the other classes find what they would have found in `s`. -/
theorem State.Served.cons {s u t : State} {c : UnitClass} {cs : List UnitClass} (hs : s.InX2) (hc : c ∉ cs)
    (hf : s.Fills u c (s.wantLane s.readyQueue c) (s.wantsByp c (s.readyQueue c))) (h : u.Served t cs) :
    s.Served t (c :: cs) := by
  have hother (d : UnitClass) (hd : d ∈ cs) := hf.other hs fun (hdc : d = c) => hc (hdc ▸ hd)
  refine ⟨fun d => ?_, ?_, ?_, h.fault⟩
  · rw [h.lanes]
    by_cases hdc : d = c
    · subst hdc
      simp only [hc, List.mem_cons, true_or, if_true, if_false, hf.lanes]
    · by_cases hd : d ∈ cs
      · simp only [hd, List.mem_cons, or_true, if_true, (hother d hd).2.1, hf.otherLanes d hdc, hf.starts.cfg]
      · simp only [hd, hdc, List.mem_cons, or_self, if_false, hf.otherLanes d hdc]
  · have hbyp : (cs.flatMap fun d => u.wantsByp d (u.readyQueue d)) =
        cs.flatMap fun d => s.wantsByp d (s.readyQueue d) :=
      List.flatMap_congr fun d hd => by rw [hf.starts.wantsByp, (hother d hd).1]
    rw [h.byp, hbyp, hf.byp, List.flatMap_cons, fillByp_append]
  · have hstarted : cs.flatMap (u.startedOf u.readyQueue) = cs.flatMap (s.startedOf s.readyQueue) :=
      List.flatMap_congr fun d hd => (hother d hd).2.2
    have hstarts := h.starts
    rw [hstarted] at hstarts
    exact hf.starts.trans hstarts

/-- X2 for some of the classes, in any order. -/
theorem dispatchClasses_served (cs : List UnitClass) : ∀ {s : State}, s.InX2 → cs.Nodup →
    (.memory ∈ cs → s.turn.memTimedIssued = false) → ∃ t, forEach dispatchClass cs s = .next t ∧ s.Served t cs := by
  induction cs with
  | nil =>
    intro s hs _ _
    exact ⟨s, rfl, fun _ => rfl, (fillByp_empty _).symm, .refl s, hs.fault⟩
  | cons c cs ih =>
    intro s hs hnodup htime
    obtain ⟨hc, hnodup⟩ := List.nodup_cons.1 hnodup
    obtain ⟨u, hx, hu, htimed, hf⟩ := dispatchClass_fills c hs fun hm => htime (hm ▸ List.mem_cons_self)
    have htime' : .memory ∈ cs → u.turn.memTimedIssued = false := fun hm =>
      (htimed fun hcm => hc (hcm ▸ hm)).trans (htime (List.mem_cons_of_mem c hm))
    obtain ⟨t, ht, hserved⟩ := ih hu hnodup htime'
    refine ⟨t, ?_, hserved.cons hs hc hf⟩
    rw [forEach_cons, hx, andThen_next, if_pos hu.fault, ht]

/-! ## The whole of X2 -/

theorem dispatchPhase_served {s : State} (hs : s.InX2) : ∃ t, dispatchPhase s = .next t ∧ s.Served t UnitClass.all := by
  have hs' : (s.withTurn { s.turn with memTimedIssued := false }).InX2 := hs.run (.turn _ _) hs.fault
  obtain ⟨t, ht, hlanes, hbyp, hstarts, hfault⟩ := dispatchClasses_served UnitClass.all hs' (by decide) fun _ => rfl
  exact ⟨t, ht, hlanes, hbyp, (State.Starts.withTurn s _).trans hstarts, hfault⟩

/-- Only the memory class fills bypass slots. -/
theorem State.wantsByp_all (s : State) (q : UnitClass → List RsRef) :
    (UnitClass.all.flatMap fun c => s.wantsByp c (q c)) = s.wantBypass q := by
  simp [UnitClass.all, State.wantsByp, State.wantBypass]

theorem State.mem_started_iff {s : State} {q : UnitClass → List RsRef} {r : RsRef} :
    r ∈ s.started q ↔ r ∈ UnitClass.all.flatMap (s.startedOf q) := by
  simp only [State.started, State.startedOf, ← State.wantsByp_all, List.map_flatMap, List.mem_append, List.mem_flatMap]
  simp only [and_or_left, exists_or, freeLanes]

/-- Settles O60: the queues are the model's own lists of ready entries, and each class serves its list. -/
theorem dispatchServesOldestFirst : Obligations.DispatchServesOldestFirst := by
  unfold Obligations.DispatchServesOldestFirst
  intro s q hrun hp hsl hn hq
  have hfit := State.runnable_iff_fit.1 hrun
  obtain rfl : q = s.readyQueue := funext fun c => (UnitClass.forall_iff.2 hq c).eq_readyQueue hfit hp
  obtain ⟨t, ht, hlanes, hbyp, hstarts, hfault⟩ := dispatchPhase_served ⟨hn, hfit, hp, hsl⟩
  have hst := hstarts.congr fun r => (State.mem_started_iff (r := r)).symm
  refine ⟨t, ht, fun c => ?_, hbyp.trans (congrArg _ (s.wantsByp_all _)), hst.entry, ?_, fun u hu => ?_, hst.head,
    hst.tail, hst.count, hst.faults hfault⟩
  · rw [hlanes, if_pos (UnitClass.forall_iff.2 (fun c hc => hc) c)]
  · rintro r hr x rfl
    have hb : (s.entry r).busy = true := by
      obtain ⟨c, -, hr⟩ := List.mem_flatMap.1 (State.mem_started_iff.1 hr)
      exact ((State.mem_readyQueue_iff hfit).1 (State.mem_startedOf hr)).2.2.2.1
    have hlive := (((State.poolsOk_iff hfit).1 hp).1 r hb).live
    have hlt := hfit.slotCount ▸ ((State.mem_liveTags_iff hfit).1 hlive).1
    rw [hst.slot, if_pos ⟨⟨r, hr, rfl⟩, hlt⟩]
    rfl
  · rw [hst.slot, if_neg]
    rintro ⟨⟨r, hr, hu'⟩, -⟩
    exact hu r hr hu'

end Sys2Proof.Machine
end

section
/-! PROOFS. One turn of W (42:R150 to R154): what the broadcast of a done slot leaves of every entry, ROB slot, lane and
bypass slot, and that two broadcasts commute. -/

namespace Sys2Proof.Machine

/-! ## What a broadcast leaves, part by part -/

/-- Each operand of a busy entry hears the broadcast, and nothing else of it changes (R151). -/
theorem RsEntry.hear_eq (e : RsEntry) (t : Nat) (v : Word) :
    e.hear t v = { e with
      op1 := if e.busy ∧ e.op1.ready = false ∧ e.op1.tag = t then ⟨true, v, 0⟩ else e.op1
      op2 := if e.busy ∧ e.op2.ready = false ∧ e.op2.tag = t then ⟨true, v, 0⟩ else e.op2 } := by
  unfold RsEntry.hear
  by_cases hb : e.busy = true
  · rw [if_pos hb]
    simp only [hb, true_and]
    rfl
  · rw [if_neg hb, if_neg fun h => hb h.1, if_neg fun h => hb h.1]

/-- The entry, marked for removal where `m` says so (R153). -/
def RsEntry.mark (e : RsEntry) (m : Bool) : RsEntry := { e with remove := e.remove || m }

theorem RsEntry.hear_mark (e : RsEntry) (m : Bool) (t : Nat) (v : Word) :
    (e.mark m).hear t v = (e.hear t v).mark m := by
  simp only [RsEntry.hear_eq, RsEntry.mark]

theorem RsEntry.mark_comm (e : RsEntry) (m m' : Bool) : (e.mark m).mark m' = (e.mark m').mark m := by
  simp only [RsEntry.mark, Bool.or_right_comm]

/-- The entry slot `l` serves is `q`, and there is such an entry. -/
def State.servesEntry (s : State) (l : SlotRef) (q : RsRef) : Bool :=
  (s.slotView l).rs == q && decide (q.idx < (s.rs.get q.pool).length)

theorem State.entry_writeResult_eq (s : State) (l : SlotRef) (b : Bool) (q : RsRef) :
    (s.writeResult l b).entry q =
      ((s.entry q).hear (s.tagOf l) (s.slotView l).result).mark (s.servesEntry l q) := by
  rw [State.entry_writeResult]
  split_ifs with h
  · simp [RsEntry.mark, State.servesEntry, h]
  · have hm : s.servesEntry l q = false := by
      by_contra hm
      simp only [State.servesEntry, Bool.not_eq_false, Bool.and_eq_true, beq_iff_eq, decide_eq_true_eq] at hm
      exact h ⟨hm.1.symm, hm.1 ▸ hm.2⟩
    rw [hm, RsEntry.mark, Bool.or_false]

theorem State.slot_writeResult (s : State) (l : SlotRef) (b : Bool) (u : Nat) :
    (s.writeResult l b).slot u =
      if u = s.tagOf l ∧ s.tagOf l < s.rob.slots.length then
        (s.slot u).hear (s.slotView l).result (if b then some (s.slotView l).misPred else none) s.now
      else s.slot u := by
  rw [State.writeResult_eq, State.slot_freeSlot, State.slot_setEntry, State.slot_setSlot]
  by_cases hu : u = s.tagOf l
  · subst hu
    simp only [true_and]
    rfl
  · rw [if_neg fun h => hu h.1.symm, if_neg fun h => hu h.1]
    rfl

theorem State.lane_writeResult (s : State) (l : SlotRef) (b : Bool) (c : UnitClass) (j : Nat) :
    (s.writeResult l b).lane c j =
      if l = .timed c j then { s.lane c j with busy := false, done := false, ttl := 0 } else s.lane c j := by
  cases l with
  | bypass k => rfl
  | timed d k =>
    have hfree : (s.writeResult (.timed d k) b).lane c j = (s.freeSlot (.timed d k)).lane c j := rfl
    rw [hfree, State.freeSlot, State.lane_setLane]
    by_cases h : SlotRef.timed d k = .timed c j
    · obtain ⟨rfl, rfl⟩ := SlotRef.timed.inj h
      by_cases hk : k < (s.lanes.get d).length
      · simp [hk]
      · simp [hk, State.lane, Lane.empty]
    · rw [if_neg h, if_neg]
      rintro ⟨⟨rfl, rfl⟩, -⟩
      exact h rfl

theorem State.bypSlot_writeResult (s : State) (l : SlotRef) (b : Bool) (j : Nat) :
    (s.writeResult l b).bypSlot j =
      if l = .bypass j then { s.bypSlot j with busy := false, done := false } else s.bypSlot j := by
  cases l with
  | timed d k => rfl
  | bypass k =>
    have hfree : (s.writeResult (.bypass k) b).bypSlot j = (s.freeSlot (.bypass k)).bypSlot j := rfl
    rw [hfree, State.freeSlot, State.bypSlot_setByp]
    by_cases h : SlotRef.bypass k = .bypass j
    · obtain rfl := SlotRef.bypass.inj h
      by_cases hk : k < s.byp.length
      · simp [hk]
      · simp [hk, State.bypSlot, BypSlot.empty]
    · rw [if_neg h, if_neg]
      rintro ⟨rfl, -⟩
      exact h rfl

@[simp] theorem State.now_writeResult (s : State) (l : SlotRef) (b : Bool) : (s.writeResult l b).now = s.now :=
  congrArg (· + 1) (s.writeResult_cycle l b)

theorem State.writeResult_atPhase (s : State) (p : Phase) (l : SlotRef) (b : Bool) :
    (s.atPhase p).writeResult l b = (s.writeResult l b).atPhase p := by
  cases l <;> rfl

theorem State.writeResult_sameExcept (s : State) (l : SlotRef) (b : Bool) :
    s.SameExcept (s.writeResult l b) [.rob, .rs, .lanes, .byp] := by
  intro p hp
  cases p <;> simp [Part.same] at hp ⊢

/-- Settles O28: the turn is the broadcast, part by part. -/
theorem writebackBroadcasts : Obligations.WritebackBroadcasts := by
  unfold Obligations.WritebackBroadcasts
  rintro s i l ref tag v hp hi rfl rfl rfl hidx htag
  have hframe := s.writeResult_execFrame l (isBranch i)
  refine ⟨_, (exec_at_writeback hp i).trans (by rw [if_neg hi]), fun e => ?_, fun u => ?_,
    s.lane_writeResult l _, s.bypSlot_writeResult l _, hframe.head, hframe.tail, hframe.count,
    s.writeResult_sameExcept l _⟩
  · have hremove : ((s.entry e).remove || s.servesEntry l e) =
        if e = (s.slotView l).rs then true else (s.entry e).remove := by
      by_cases he : e = (s.slotView l).rs
      · simp [State.servesEntry, he, hidx]
      · simp [State.servesEntry, he, Ne.symm he]
    rw [State.entry_writeResult_eq, RsEntry.hear_eq, RsEntry.mark, hremove]
    rfl
  · rw [State.slot_writeResult]
    refine if_ctx_congr (and_iff_left htag) (fun _ => ?_) fun _ => rfl
    cases isBranch i <;> rfl

/-! ## States that agree at every index -/

/-- The arrays of `t` are as long as those of `s`, and its ring has the pointers of `s`. -/
structure State.SameShape (s t : State) : Prop where
  slots : t.rob.slots.length = s.rob.slots.length
  head : t.rob.head = s.rob.head
  tail : t.rob.tail = s.rob.tail
  count : t.rob.count = s.rob.count
  pools : ∀ p, (t.rs.get p).length = (s.rs.get p).length
  lanes : ∀ c, (t.lanes.get c).length = (s.lanes.get c).length
  byp : t.byp.length = s.byp.length

theorem State.SameShape.symm {s t : State} (h : s.SameShape t) : t.SameShape s :=
  ⟨h.slots.symm, h.head.symm, h.tail.symm, h.count.symm, fun p => (h.pools p).symm, fun c => (h.lanes c).symm,
    h.byp.symm⟩

theorem State.SameShape.trans {s t u : State} (h : s.SameShape t) (h' : t.SameShape u) : s.SameShape u :=
  ⟨h'.slots.trans h.slots, h'.head.trans h.head, h'.tail.trans h.tail, h'.count.trans h.count,
    fun p => (h'.pools p).trans (h.pools p), fun c => (h'.lanes c).trans (h.lanes c), h'.byp.trans h.byp⟩

theorem State.writeResult_sameShape (s : State) (l : SlotRef) (b : Bool) : s.SameShape (s.writeResult l b) := by
  have hfree (u : State) : u.SameShape (u.freeSlot l) := by
    cases l with
    | timed c j => exact ⟨rfl, rfl, rfl, rfl, fun _ => rfl, u.length_setLane c j _, rfl⟩
    | bypass j => exact ⟨rfl, rfl, rfl, rfl, fun _ => rfl, fun _ => rfl, List.length_set ..⟩
  rw [State.writeResult_eq]
  refine State.SameShape.trans ?_ (hfree _)
  refine ⟨List.length_set .., rfl, rfl, rfl, fun p => ?_, fun _ => rfl, rfl⟩
  rw [State.length_setEntry, State.setSlot_rs, State.length_mapEntries]

theorem State.SameExcept.symm {s t : State} {parts : List Part} (h : s.SameExcept t parts) : t.SameExcept s parts := by
  intro p hp
  have hsame := h p hp
  cases p <;> exact Eq.symm hsame

theorem ext_getD {α : Type} {l l' : List α} (d : α) (hl : l'.length = l.length)
    (h : ∀ k : Nat, l'[k]?.getD d = l[k]?.getD d) : l' = l := by
  refine List.ext_getElem hl fun k hk hk' => ?_
  simpa [hk, hk'] using h k

theorem PerPool.ext_get {α : Type} {x y : PerPool α} (h : ∀ p, y.get p = x.get p) : y = x := by
  cases x; cases y
  rw [PerPool.mk.injEq]
  exact ⟨h .intRs, h .addRs, h .multRs, h .loadB⟩

theorem PerClass.ext_get {α : Type} {x y : PerClass α} (h : ∀ c, y.get c = x.get c) : y = x := by
  cases x; cases y
  rw [PerClass.mk.injEq]
  exact ⟨h .integer, h .adder, h .multiplier, h .divider, h .memory⟩

/-- A state is known by its shape, its ROB slots, entries, lanes and bypass slots, and its other parts. -/
theorem State.ext_accessors {s t : State} (hshape : s.SameShape t) (hslot : ∀ u, t.slot u = s.slot u)
    (hentry : ∀ q, t.entry q = s.entry q) (hlane : ∀ c j, t.lane c j = s.lane c j)
    (hbyp : ∀ j, t.bypSlot j = s.bypSlot j) (hrest : s.SameExcept t [.rob, .rs, .lanes, .byp]) : t = s := by
  have hslots := ext_getD RobSlot.empty hshape.slots hslot
  have hrob : t.rob = s.rob := by
    obtain ⟨_, hhead, htail, hcount, -⟩ := hshape
    cases hs : s.rob
    cases ht : t.rob
    rw [hs, ht] at hslots hhead htail hcount
    rw [Rob.mk.injEq]
    exact ⟨hslots, hhead, htail, hcount⟩
  have hrs : t.rs = s.rs := PerPool.ext_get fun p => ext_getD RsEntry.empty (hshape.pools p) fun k => hentry ⟨p, k⟩
  have hlanes : t.lanes = s.lanes := PerClass.ext_get fun c => ext_getD Lane.empty (hshape.lanes c) (hlane c)
  have hbyps := ext_getD BypSlot.empty hshape.byp hbyp
  have hsame (p : Part) : p.same s t := by
    by_cases hp : p ∈ [Part.rob, .rs, .lanes, .byp]
    · simp only [List.mem_cons, List.not_mem_nil, or_false] at hp
      obtain rfl | rfl | rfl | rfl := hp
      exacts [hrob, hrs, hlanes, hbyps]
    · exact hrest p hp
  cases s
  cases t
  rw [State.mk.injEq]
  exact ⟨hsame .cfg, hsame .prog, hsame .gpr, hsame .fpr, hsame .pc, hrob, hrs, hlanes, hbyps, hsame .memBlock,
    hsame .mem, hsame .cycle, hsame .committed, hsame .nextId, hsame .fault, hsame .faultPc, hsame .faultAddr,
    hsame .turn⟩

/-! ## Two broadcasts commute (R154) -/

theorem Operand.hear_of_waiting {o : Operand} {t : Nat} (h : o.ready = false ∧ o.tag = t) (v : Word) :
    o.hear t v = ⟨true, v, 0⟩ := if_pos h

theorem Operand.hear_of_not {o : Operand} {t : Nat} (h : ¬(o.ready = false ∧ o.tag = t)) (v : Word) :
    o.hear t v = o := if_neg h

theorem Operand.hear_of_ready {o : Operand} (h : o.ready = true) (t : Nat) (v : Word) : o.hear t v = o :=
  Operand.hear_of_not (fun hn => Bool.noConfusion (h.symm.trans hn.1)) v

/-- An operand waits for one tag at most, and for none when it has its value. -/
theorem Operand.hear_comm (o : Operand) {t t' : Nat} (h : t ≠ t') (v v' : Word) :
    (o.hear t v).hear t' v' = (o.hear t' v').hear t v := by
  by_cases ht : o.ready = false ∧ o.tag = t
  · have ht' : ¬(o.ready = false ∧ o.tag = t') := fun he => h (ht.2.symm.trans he.2)
    rw [Operand.hear_of_waiting ht, Operand.hear_of_not ht', Operand.hear_of_waiting ht,
      Operand.hear_of_ready (o := ⟨true, v, 0⟩) rfl]
  · by_cases ht' : o.ready = false ∧ o.tag = t'
    · rw [Operand.hear_of_not ht, Operand.hear_of_waiting ht',
        Operand.hear_of_ready (o := ⟨true, v', 0⟩) rfl]
    · rw [Operand.hear_of_not ht, Operand.hear_of_not ht', Operand.hear_of_not ht]

theorem RsEntry.hear_comm (e : RsEntry) {t t' : Nat} (h : t ≠ t') (v v' : Word) :
    (e.hear t v).hear t' v' = (e.hear t' v').hear t v := by
  cases hb : e.busy
  · simp [RsEntry.hear, hb]
  · simp [RsEntry.hear, hb, Operand.hear_comm _ h]

/-- A broadcast leaves the other slots and the tags of the entries, so the result another slot broadcasts, and its tag. -/
theorem State.writeResult_other {s : State} {l l' : SlotRef} (h : l' ≠ l) (b : Bool) :
    (s.writeResult l b).slotView l' = s.slotView l' ∧ (s.writeResult l b).tagOf l' = s.tagOf l' := by
  have hv : (s.writeResult l b).slotView l' = s.slotView l' := by rw [State.slotView_writeResult, if_neg h]
  refine ⟨hv, ?_⟩
  rw [State.tagOf, hv, (s.writeResult_execFrame l b).tagD]
  rfl

theorem State.writeResult_comm {s : State} {l l' : SlotRef} (hl : l ≠ l') (ht : s.tagOf l ≠ s.tagOf l') (b b' : Bool) :
    (s.writeResult l b).writeResult l' b' = (s.writeResult l' b').writeResult l b := by
  have hshape := s.writeResult_sameShape l b
  have hshape' := s.writeResult_sameShape l' b'
  have hrest := (s.writeResult_sameExcept l b).trans (State.writeResult_sameExcept _ l' b')
  have hrest' := (s.writeResult_sameExcept l' b').trans (State.writeResult_sameExcept _ l b)
  obtain ⟨hv, htag⟩ := State.writeResult_other (s := s) hl.symm b
  obtain ⟨hv', htag'⟩ := State.writeResult_other (s := s) hl b'
  refine State.ext_accessors ?_ (fun u => ?_) (fun q => ?_) (fun c j => ?_) (fun j => ?_) (hrest'.symm.trans hrest)
  · exact (hshape'.trans (State.writeResult_sameShape ..)).symm.trans (hshape.trans (State.writeResult_sameShape ..))
  · simp only [State.slot_writeResult, State.now_writeResult, hv, htag, hv', htag', hshape.slots, hshape'.slots]
    by_cases hu : u = s.tagOf l
    · have hu' : u ≠ s.tagOf l' := hu ▸ ht
      simp only [hu', false_and, if_false]
    · simp only [hu, false_and, if_false]
  · simp only [State.entry_writeResult_eq, State.servesEntry, hv, htag, hv', htag', hshape.pools, hshape'.pools]
    rw [RsEntry.hear_mark, RsEntry.hear_mark, RsEntry.hear_comm _ ht, RsEntry.mark_comm]
  · simp only [State.lane_writeResult]
    split_ifs <;> rfl
  · simp only [State.bypSlot_writeResult]
    split_ifs <;> rfl

/-- Settles O29: the turns are two broadcasts, which commute. -/
theorem writebackOrderIsImmaterial : Obligations.WritebackOrderIsImmaterial := by
  unfold Obligations.WritebackOrderIsImmaterial
  intro s i i' l l' hi hi' hl _ ht
  have hturn {i : Instr} (hi : i ≠ .eop) (u : State) (m : SlotRef) :
      exec i (u.atPhase (.writeback m)) = .next ((u.writeResult m (isBranch i)).atPhase (.writeback m)) := by
    rw [exec_at_writeback rfl, if_neg hi, State.writeResult_atPhase]
  refine ⟨_, _, _, _, hturn hi s l, hturn hi' _ l', hturn hi' s l', hturn hi _ l, ?_⟩
  rw [State.writeResult_atPhase, State.writeResult_atPhase, State.writeResult_comm hl ht]
  rfl

end Sys2Proof.Machine
end

section
/-! PROOFS. The whole of W (42:R150 to R155): the turns of the done slots one after the other, each with the words it
had when W began. -/

namespace Sys2Proof.Machine

/-! ## What the done slots leave -/

/-- An operand after the broadcasts of the slots `ls`, in their order (R151). -/
def State.heardFrom (s : State) (ls : List SlotRef) (o : Operand) : Operand :=
  if o.ready then o
  else
    match ls.find? fun l => s.tagOf l == o.tag with
    | some l => ⟨true, (s.slotView l).result, 0⟩
    | none => o

theorem State.heard_eq (s : State) (o : Operand) : s.heard o = s.heardFrom s.doneSlots o := rfl

theorem State.heardFrom_nil (s : State) (o : Operand) : s.heardFrom [] o = o := by
  unfold State.heardFrom
  split_ifs <;> rfl

/-- An operand that has heard one broadcast hears no other (R151). -/
theorem State.heardFrom_cons (s : State) (l : SlotRef) (ls : List SlotRef) (o : Operand) :
    s.heardFrom (l :: ls) o = s.heardFrom ls (o.hear (s.tagOf l) (s.slotView l).result) := by
  by_cases hr : o.ready = true
  · rw [Operand.hear_of_ready hr, State.heardFrom, State.heardFrom, if_pos hr, if_pos hr]
  · by_cases ht : s.tagOf l = o.tag
    · rw [Operand.hear_of_waiting ⟨by simpa using hr, ht.symm⟩, State.heardFrom, if_neg hr,
        List.find?_cons_of_pos (by simpa using ht)]
      rfl
    · rw [Operand.hear_of_not fun he => ht he.2.symm, State.heardFrom, State.heardFrom, if_neg hr, if_neg hr,
        List.find?_cons_of_neg (by simpa using ht)]

/-- An entry after the broadcasts of the slots `ls`: a busy one hears them (R151). -/
def State.entryHeard (s : State) (ls : List SlotRef) (e : RsEntry) : RsEntry :=
  { e with
    op1 := if e.busy then s.heardFrom ls e.op1 else e.op1
    op2 := if e.busy then s.heardFrom ls e.op2 else e.op2 }

theorem State.entryHeard_nil (s : State) (e : RsEntry) : s.entryHeard [] e = e := by
  simp [State.entryHeard, State.heardFrom_nil]

theorem State.entryHeard_cons (s : State) (l : SlotRef) (ls : List SlotRef) (e : RsEntry) :
    s.entryHeard (l :: ls) e = s.entryHeard ls (e.hear (s.tagOf l) (s.slotView l).result) := by
  cases hb : e.busy
  · simp [State.entryHeard, RsEntry.hear, hb]
  · simp [State.entryHeard, RsEntry.hear, hb, State.heardFrom_cons]

theorem RsEntry.mark_mark (e : RsEntry) (m m' : Bool) : (e.mark m).mark m' = e.mark (m || m') := by
  simp only [RsEntry.mark, Bool.or_assoc]

theorem State.entryHeard_mark (s : State) (ls : List SlotRef) (e : RsEntry) (m : Bool) :
    s.entryHeard ls (e.mark m) = (s.entryHeard ls e).mark m := rfl

/-- The ROB slot of the tag of slot `l` after its broadcast (R152). -/
def State.slotHeard (s : State) (l : SlotRef) : RobSlot :=
  (s.slot (s.tagOf l)).hear (s.slotView l).result
    (if (s.entry (s.slotView l).rs).instr.opIsBranch then some (s.slotView l).misPred else none) s.now

/-- From `s` to `t` the slots `ls` had their turn in W, and nothing but the turn changed besides (R150 to R153). -/
structure State.WritesBack (s t : State) (ls : List SlotRef) : Prop where
  entry : ∀ q, t.entry q = (s.entryHeard ls (s.entry q)).mark (ls.any fun l => (s.slotView l).rs == q)
  slot : ∀ l ∈ ls, t.slot (s.tagOf l) = s.slotHeard l
  other : ∀ u, (∀ l ∈ ls, s.tagOf l ≠ u) → t.slot u = s.slot u
  lane : ∀ c j, t.lane c j =
    if .timed c j ∈ ls then { s.lane c j with busy := false, done := false, ttl := 0 } else s.lane c j
  byp : ∀ j, t.bypSlot j =
    if .bypass j ∈ ls then { s.bypSlot j with busy := false, done := false } else s.bypSlot j
  rest : s.SameExcept t [.rob, .rs, .lanes, .byp, .turn]

theorem State.WritesBack.withTurn (s : State) (τ : Turn) : s.WritesBack (s.withTurn τ) [] where
  entry q := by
    rw [State.entryHeard_nil]
    exact (congrArg (fun m => { s.entry q with remove := m }) (Bool.or_false _)).symm
  slot := nofun
  other _ _ := rfl
  lane _ _ := rfl
  byp _ := rfl
  rest p hp := by cases p <;> simp [Part.same, State.withTurn] at hp ⊢

theorem State.WritesBack.one {s : State} {l : SlotRef} (ht : s.tagOf l < s.rob.slots.length)
    (hb : (s.entry (s.slotView l).rs).busy = true) :
    s.WritesBack (s.writeResult l (s.entry (s.slotView l).rs).instr.opIsBranch) [l] where
  entry q := by
    have hq : s.servesEntry l q = [l].any fun l => (s.slotView l).rs == q := by
      rw [List.any_cons, List.any_nil, Bool.or_false, State.servesEntry]
      by_cases hq : (s.slotView l).rs = q
      · rw [decide_eq_true (hq ▸ State.entry_lt_of_busy hb), Bool.and_true]
      · rw [beq_false_of_ne hq, Bool.false_and]
    rw [State.entry_writeResult_eq, State.entryHeard_cons, State.entryHeard_nil, hq]
  slot m hm := by
    obtain rfl := List.mem_singleton.1 hm
    rw [State.slot_writeResult, if_pos ⟨rfl, ht⟩]
    rfl
  other u hu := by
    rw [State.slot_writeResult, if_neg fun h => hu l (List.mem_singleton.2 rfl) h.1.symm]
  lane c j := by
    rw [State.lane_writeResult]
    exact if_congr (by simp [eq_comm]) rfl rfl
  byp j := by
    rw [State.bypSlot_writeResult]
    exact if_congr (by simp [eq_comm]) rfl rfl
  rest p hp := by
    refine s.writeResult_sameExcept l _ p fun h => hp ?_
    exact List.mem_of_mem_dropLast h

/-- The slots `ls` broadcast in `u` what they broadcast in `s`. -/
structure State.SameBroadcasts (s u : State) (ls : List SlotRef) : Prop where
  view : ∀ l ∈ ls, u.slotView l = s.slotView l
  tag : ∀ l ∈ ls, u.tagOf l = s.tagOf l
  branch : ∀ q, (u.entry q).instr = (s.entry q).instr
  now : u.now = s.now

theorem State.SameBroadcasts.heardFrom {s u : State} {ls : List SlotRef} (h : s.SameBroadcasts u ls) (o : Operand) :
    u.heardFrom ls o = s.heardFrom ls o := by
  induction ls generalizing o with
  | nil => rw [State.heardFrom_nil, State.heardFrom_nil]
  | cons l ls ih =>
    have hl : l ∈ l :: ls := List.mem_cons_self
    rw [State.heardFrom_cons, State.heardFrom_cons, h.tag l hl, h.view l hl]
    exact ih ⟨fun m hm => h.view m (List.mem_cons_of_mem l hm), fun m hm => h.tag m (List.mem_cons_of_mem l hm),
      h.branch, h.now⟩ _

theorem State.SameBroadcasts.entryHeard {s u : State} {ls : List SlotRef} (h : s.SameBroadcasts u ls) (e : RsEntry) :
    u.entryHeard ls e = s.entryHeard ls e := by
  simp only [State.entryHeard, h.heardFrom]

/-- The turn of one slot leaves what the others broadcast. -/
theorem State.WritesBack.sameBroadcasts {s u : State} {l : SlotRef} {ls : List SlotRef} (h : s.WritesBack u [l])
    (hl : l ∉ ls) : s.SameBroadcasts u ls := by
  have hview (m : SlotRef) (hm : m ∈ ls) : u.slotView m = s.slotView m := by
    have hne : m ∉ [l] := fun he => hl (List.mem_singleton.1 he ▸ hm)
    cases m with
    | timed c j => simp only [State.slotView, h.lane, if_neg hne]
    | bypass j => simp only [State.slotView, h.byp, if_neg hne]
  refine ⟨hview, fun m hm => ?_, fun q => ?_, congrArg (· + 1) (h.rest .cycle (by decide))⟩
  · rw [State.tagOf, hview m hm, h.entry]
    rfl
  · rw [h.entry]
    rfl

/-- The turns of slots with different tags, each as from `s`. -/
theorem State.WritesBack.cons {s u t : State} {l : SlotRef} {ls : List SlotRef} (hl : l ∉ ls)
    (htag : ∀ m ∈ ls, s.tagOf m ≠ s.tagOf l) (h : s.WritesBack u [l]) (h' : u.WritesBack t ls) :
    s.WritesBack t (l :: ls) := by
  have hsame := h.sameBroadcasts hl
  have hslot (v : Nat) (hv : v ≠ s.tagOf l) : u.slot v = s.slot v :=
    h.other v fun m hm => List.mem_singleton.1 hm ▸ hv.symm
  refine ⟨fun q => ?_, fun m hm => ?_, fun v hv => ?_, fun c j => ?_, fun j => ?_, h.rest.trans h'.rest⟩
  · have hany : (ls.any fun m => (u.slotView m).rs == q) = ls.any fun m => (s.slotView m).rs == q :=
      Bool.eq_iff_iff.2 (by
        simp only [List.any_eq_true]
        exact exists_congr fun m => and_congr_right fun hm => by rw [hsame.view m hm])
    rw [h'.entry, h.entry, State.entryHeard_mark, RsEntry.mark_mark, hsame.entryHeard, State.entryHeard_cons,
      State.entryHeard_nil, State.entryHeard_cons, hany, List.any_cons, List.any_nil, Bool.or_false, List.any_cons]
  · obtain rfl | hm := List.mem_cons.1 hm
    · rw [h'.other, h.slot m (List.mem_singleton.2 rfl)]
      exact fun k hk => hsame.tag k hk ▸ htag k hk
    · rw [← hsame.tag m hm, h'.slot m hm]
      rw [State.slotHeard, hsame.tag m hm, hslot _ (htag m hm), hsame.view m hm, hsame.branch, hsame.now]
      rfl
  · rw [h'.other v fun m hm => hsame.tag m hm ▸ hv m (List.mem_cons_of_mem l hm)]
    exact hslot v (hv l List.mem_cons_self).symm
  · rw [h'.lane, h.lane]
    by_cases hc : .timed c j = l
    · simp [hc, hl]
    · simp [hc]
  · rw [h'.byp, h.byp]
    by_cases hj : .bypass j = l
    · simp [hj, hl]
    · simp [hj]

/-! ## The loop -/

/-- What W needs of the tables: they agree, and what is done is busy (R41 to R43). -/
structure State.InW (s : State) : Prop where
  fit : s.Fit
  pools : s.PoolsOk
  slots : s.SlotsOk
  units : s.UnitsOk
  fault : s.fault = .noFault

theorem State.InW.change {s t : State} (h : s.InW) (hc : ExecChange s t) (hf : t.fault = .noFault) : t.InW :=
  have ht := h.fit.execChange hc
  ⟨ht, hc.frame.poolsOk h.fit ht h.pools, hc.slotsOk h.fit h.slots, hc.unitsOk h.fit h.units hf, hf⟩

theorem State.UnitsOk.busy_of_done {s : State} (h : s.UnitsOk) {l : SlotRef} (hd : (s.slotView l).done = true) :
    (s.slotView l).busy = true := by
  cases l with
  | timed c j =>
    obtain ⟨-, -, hn⟩ | ⟨-, -, -, hn⟩ | ⟨hb, -, -⟩ := h.1 c j
    · exact absurd (hn.symm.trans hd) nofun
    · exact absurd (hn.symm.trans hd) nofun
    · exact hb
  | bypass j => exact h.2 j hd

namespace State.InW

variable {s : State} (h : s.InW) {l : SlotRef} (hd : (s.slotView l).done = true)

include h hd

theorem serves : s.Serves (s.slotView l).rs l.unit :=
  ((State.slotsOk_iff h.fit).1 h.slots).1 l (h.units.busy_of_done hd)

theorem tag_lt : s.tagOf l < s.rob.slots.length :=
  have hlive := (((State.poolsOk_iff h.fit).1 h.pools).1 _ (h.serves hd).busy).live
  h.fit.slotCount ▸ ((State.mem_liveTags_iff h.fit).1 hlive).1

/-- Done slots have different tags (R42, R154). -/
theorem tag_ne {m : SlotRef} (hm : (s.slotView m).done = true) (hml : m ≠ l) : s.tagOf m ≠ s.tagOf l := fun ht =>
  have hrs := ((State.poolsOk_iff h.fit).1 h.pools).2 _ _ (h.serves hm).busy (h.serves hd).busy ht
  hml (((State.slotsOk_iff h.fit).1 h.slots).2 m l (h.units.busy_of_done hm) (h.units.busy_of_done hd) hrs)

/-- The turn of a done slot serves it, and W goes on (R150). -/
theorem served : ∃ u, writebackSlot l s = .next u ∧ u.InW ∧ s.WritesBack u [l] := by
  obtain ⟨i, hi, hc⟩ := Record.exists_instr?_of_unitClass? (h.serves hd).unit
  have hne : i ≠ .eop := by rintro rfl; cases hc
  have hw : s.WritesBack (s.writeResult l (s.entry (s.slotView l).rs).instr.opIsBranch) [l] :=
    .one (h.tag_lt hd) (h.serves hd).busy
  refine ⟨(s.writeResult l (s.entry (s.slotView l).rs).instr.opIsBranch).atPhase (.writeback l), ?_, ?_, ?_⟩
  · rw [Machine.writebackSlot, if_pos hd, visit_eq hi, exec_at_writeback rfl, if_neg hne,
      Record.opIsBranch_of_instr? hi, State.writeResult_atPhase]
  · have hu := h.change (.broadcast hd) ((s.writeResult_fault l _).trans h.fault)
    exact hu.change (.turn _) hu.fault
  · exact hw.cons nofun nofun (.withTurn _ _)

end State.InW

/-- The turns of different slots in W. -/
theorem writebackSlots_writeBack {ls : List SlotRef} (hls : ls.Nodup) : ∀ s : State, s.InW →
    ∃ t, forEach writebackSlot ls s = .next t ∧ s.WritesBack t (ls.filter fun l => (s.slotView l).done) := by
  induction ls with
  | nil => exact fun s _ => ⟨s, rfl, .withTurn s s.turn⟩
  | cons l ls ih =>
    intro s hs
    obtain ⟨hl, hls⟩ := List.nodup_cons.1 hls
    by_cases hd : (s.slotView l).done = true
    · obtain ⟨u, hu, hui, hsu⟩ := hs.served hd
      have hsame := hsu.sameBroadcasts hl
      have hdone : (ls.filter fun m => (u.slotView m).done) = ls.filter fun m => (s.slotView m).done :=
        List.filter_congr fun m hm => by rw [hsame.view m hm]
      have hfilter : ((l :: ls).filter fun m => (s.slotView m).done) = l :: ls.filter fun m => (s.slotView m).done :=
        List.filter_cons_of_pos hd
      obtain ⟨t, ht, hut⟩ := ih hls u hui
      rw [hdone] at hut
      refine ⟨t, ?_, hfilter ▸ hsu.cons (fun hm => hl (List.mem_filter.1 hm).1) (fun m hm => ?_) hut⟩
      · rw [forEach_cons, hu, andThen_next, if_pos hui.fault, ht]
      · obtain ⟨hm, hmd⟩ := List.mem_filter.1 hm
        exact hs.tag_ne hd hmd fun he => hl (he ▸ hm)
    · have hskip : writebackSlot l s = .next s := if_neg hd
      have hfilter : ((l :: ls).filter fun l => (s.slotView l).done) = ls.filter fun l => (s.slotView l).done :=
        List.filter_cons_of_neg hd
      obtain ⟨t, ht, hst⟩ := ih hls s hs
      rw [forEach_cons, hskip, andThen_next, if_pos hs.fault, hfilter]
      exact ⟨t, ht, hst⟩

theorem State.slotRefs_nodup (s : State) : s.slotRefs.Nodup := by
  have htimed : (UnitClass.all.flatMap fun c => (List.range (s.cfg.lanes.get c)).map (SlotRef.timed c)).Nodup := by
    refine List.nodup_flatMap.2 ⟨fun c _ => ?_, ?_⟩
    · exact List.nodup_range.map fun j k he => (SlotRef.timed.inj he).2
    · refine List.Pairwise.imp (fun {c d} hne => ?_) (show UnitClass.all.Nodup by decide)
      simp [Function.onFun, List.disjoint_left, Ne.symm hne]
  have hbyp : ((List.range s.cfg.bypassSize).map SlotRef.bypass).Nodup :=
    List.nodup_range.map fun j k he => SlotRef.bypass.inj he
  refine List.nodup_append.2 ⟨htimed, hbyp, ?_⟩
  simp only [List.mem_flatMap, List.mem_map]
  rintro l ⟨c, -, j, -, rfl⟩ m ⟨k, -, rfl⟩
  exact nofun

theorem State.mem_doneSlots {s : State} (h : s.InW) {l : SlotRef} : l ∈ s.doneSlots ↔ (s.slotView l).done = true := by
  rw [State.doneSlots, List.mem_filter]
  exact and_iff_right_of_imp fun hd => State.mem_slotRefs_of_busy h.fit (h.units.busy_of_done hd)

/-- Settles O59: the slots are different, and each done one is served as from the state W began with. -/
theorem writebackServesEveryDoneSlot : Obligations.WritebackServesEveryDoneSlot := by
  unfold Obligations.WritebackServesEveryDoneSlot
  intro s hrun hlanes hpools hslots hf
  have hlegal := s.lanesLegal_iff.1 hlanes
  have hs : s.InW := ⟨State.runnable_iff_fit.1 hrun, hpools, hslots, ⟨hlegal.1, fun j => (hlegal.2 j).trans⟩, hf⟩
  obtain ⟨t, ht, h⟩ := writebackSlots_writeBack s.slotRefs_nodup s hs
  have hframe := (writebackPhase_run ht).frame
  refine ⟨t, ht, h.entry, fun l hl => ?_, h.other, fun c j => ?_, fun j => ?_, hframe.head, hframe.tail, hframe.count,
    h.rest⟩
  · rw [h.slot l hl, State.slotHeard]
    cases (s.entry (s.slotView l).rs).instr.opIsBranch <;> rfl
  · rw [h.lane]
    exact if_congr (State.mem_doneSlots hs) rfl rfl
  · rw [h.byp]
    exact if_congr (State.mem_doneSlots hs) rfl rfl

end Sys2Proof.Machine
end

section
/-! PROOFS. One turn of X3 and its end (42:R140 to R145): a countdown that goes on, a load's read, the bypass slots and
the completion port. -/

namespace Sys2Proof.Machine

/-! ## Loads (R143) -/

/-- Byte `k` of the word read at `a` is the byte of memory at `a + k` (R62). -/
theorem Memory.byteOf_readWord (m : Memory) (a : Nat) {k : Nat} (hk : k < 4) :
    byteOf (m.readWord a) k = m.read (a + k) := by
  unfold byteOf Memory.readWord
  obtain rfl | rfl | rfl | rfl : k = 0 ∨ k = 1 ∨ k = 2 ∨ k = 3 := by omega
  · exact BitVec.extractLsb'_append_eq_right
  · rw [BitVec.extractLsb'_append_eq_of_le (by omega)]
    exact BitVec.extractLsb'_append_eq_right
  · rw [BitVec.extractLsb'_append_eq_of_le (by omega), BitVec.extractLsb'_append_eq_of_le (by omega)]
    exact BitVec.extractLsb'_append_eq_right
  · rw [BitVec.extractLsb'_append_eq_of_le (by omega), BitVec.extractLsb'_append_eq_of_le (by omega)]
    exact BitVec.extractLsb'_append_eq_left

/-- A load whose countdown ends at a good address has the word there, and counts at the completion port (R143, R145). -/
theorem State.finishLoad_at_zero {s : State} {c : UnitClass} {j : Nat} (hb : (s.lane c j).busy = true) {e : RsEntry}
    (ha : accessFault s.cfg e.addr = none) :
    (s.setLane c j { s.lane c j with ttl := 0 }).finishLoad c j e =
      (s.laneDone c j (s.mem.readWord e.addr.toNat) false).withTurn { s.turn with memDone := s.turn.memDone + 1 } := by
  have hread : (s.setLane c j { s.lane c j with ttl := 0 }).memRead e.addr = .ok (s.mem.readWord e.addr.toNat) :=
    State.memRead_of_access (s := s.setLane c j { s.lane c j with ttl := 0 }) ha
  rw [State.finishLoad, hread]
  dsimp only
  rw [State.finishLane_at_zero hb]
  rfl

/-- Settles O22: the address is good, so the load has the word there, whose bytes are those of memory. -/
theorem loadReadsWord : Obligations.LoadReadsWord := by
  unfold Obligations.LoadReadsWord
  rintro s i c j a hfin hi rfl ha hr
  refine ⟨_, fun k => Memory.byteOf_readWord s.mem _, ?_⟩
  rw [exec_at_complete hfin.1, State.countDown_finishing hfin, computes_load hi,
    State.finishLoad_at_zero hfin.2.1 (accessFault_eq_none.2 ⟨ha, hr⟩)]
  rfl

/-! ## The end of X3 (R144, R145) -/

/-- A bypass slot at the end of X3: done, if an entry holds it (R144). -/
theorem BypSlot.finish_eq (b : BypSlot) : b.finish = { b with done := b.busy || b.done } := by
  obtain ⟨busy, rs, result, done⟩ := b
  cases busy <;> cases done <;> rfl

/-- Settles O27: every bypass slot finishes, and the port's count alone decides the fault. -/
theorem bypassSlotsFinish : Obligations.BypassSlotsFinish := by
  unfold Obligations.BypassSlotsFinish
  intro s
  have hbyp (j : Nat) : ({ s with byp := s.byp.map BypSlot.finish } : State).bypSlot j =
      { s.bypSlot j with done := (s.bypSlot j).busy || (s.bypSlot j).done } :=
    (getD_map rfl s.byp j).trans (BypSlot.finish_eq _)
  by_cases hd : 1 < s.turn.memDone
  · refine ⟨_, if_pos hd, hbyp, fun hle => absurd hd (Nat.not_lt.2 hle), fun _ => ⟨rfl, rfl, rfl, fun p hp => ?_⟩⟩
    cases p <;> simp [Part.same] at hp ⊢
  · refine ⟨_, if_neg hd, hbyp, fun _ p hp => ?_, fun h => absurd h hd⟩
    cases p <;> simp [Part.same] at hp ⊢

end Sys2Proof.Machine
end

section
/-! PROOFS. The whole of X3 (42:R140 to R145): a lane's turn depends on nothing that the turns of the other lanes write,
so each comes out as it would alone, up to the first fault (60:R312). -/

namespace Sys2Proof.Machine

/-! ## What a turn comes to -/

/-- What the turn of a lane in countdown comes to (R140). -/
inductive LaneOutcome where
  | counts
  | finishes (v : Word) (m : Bool)
  | faults (f : FaultCode) (pc addr : Word)

/-- `u` after a turn of lane `j` of class `c` with this outcome; a finished memory lane counts at the port (R145). -/
def LaneOutcome.leaves (o : LaneOutcome) (c : UnitClass) (j : Nat) (u : State) : State :=
  match o with
  | .counts => u.setLane c j { u.lane c j with ttl := (u.lane c j).ttl - 1 }
  | .finishes v m =>
    (u.laneDone c j v m).withTurn { u.turn with memDone := u.turn.memDone + if c = .memory then 1 else 0 }
  | .faults f pc addr => u.laneFaults c j f pc addr

/-- The outcome fits a lane: a countdown ends or goes on, and a fault is one. -/
def LaneOutcome.Fits (o : LaneOutcome) (l : Lane) : Prop :=
  match o with
  | .counts => l.ttl - 1 ≠ 0
  | .finishes _ _ => l.ttl - 1 = 0
  | .faults f _ _ => f ≠ .noFault

/-- `u` is `s` but for lanes and the turn, and has lane `j` of class `c` in common with it. -/
structure State.SameLane (s u : State) (c : UnitClass) (j : Nat) : Prop where
  lane : u.lane c j = s.lane c j
  rest : s.SameExcept u [.lanes, .turn]

/-- The lane serves the same entry in both. -/
theorem State.SameLane.entry {s u : State} {c : UnitClass} {j : Nat} (h : s.SameLane u c j) :
    u.entry (u.lane c j).rs = s.entry (s.lane c j).rs := by
  have hrs : u.rs = s.rs := h.rest .rs (by decide)
  simp only [State.entry, h.lane, hrs]

theorem LaneOutcome.leaves_finishes {c : UnitClass} (hc : c ≠ .memory) (j : Nat) (v : Word) (m : Bool) (u : State) :
    (LaneOutcome.finishes v m).leaves c j u = u.laneDone c j v m := by
  rw [LaneOutcome.leaves, if_neg hc]
  rfl

/-- What a finished countdown computes depends on the entry, the configuration and memory alone (R140 to R143). -/
theorem computes_outcome (s : State) {c : UnitClass} {j : Nat} (hl : (s.lane c j).Ending) {i : Instr}
    (hc : classOf? i = some c) (e : RsEntry) :
    ∃ o : LaneOutcome, o.Fits (s.lane c j) ∧ ∀ u, s.SameLane u c j →
      computes i c j e (u.setLane c j { u.lane c j with ttl := 0 }) = o.leaves c j u := by
  have hfinish {u : State} (hu : s.SameLane u c j) (v : Word) (m : Bool) :
      (u.setLane c j { u.lane c j with ttl := 0 }).finishLane c j v m = u.laneDone c j v m :=
    State.finishLane_at_zero (hu.lane ▸ hl.1.1) v m
  have hcfg {u : State} (hu : s.SameLane u c j) : u.cfg = s.cfg := hu.rest .cfg (by decide)
  by_cases hld : isLoad i = true
  · obtain rfl : .memory = c := Option.some.inj ((classOf?_of_isMemory (.inl hld)).symm.trans hc)
    cases ha : accessFault s.cfg e.addr with
    | some f =>
      refine ⟨.faults f e.instr.pc e.addr, (accessFault_ne ha).1, fun u hu => ?_⟩
      rw [computes_load hld, State.finishLoad, State.memRead, State.setLane_cfg, hcfg hu, ha]
      rfl
    | none =>
      refine ⟨.finishes (s.mem.readWord e.addr.toNat) false, hl.2, fun u hu => ?_⟩
      rw [computes_load hld, State.finishLoad_at_zero (hu.lane ▸ hl.1.1) (by rw [hcfg hu, ha]),
        hu.rest .mem (by decide)]
      rfl
  by_cases hst : isStore i = true ∨ i = .eop
  · refine ⟨.faults .unknownOpcode e.instr.pc 0, (nofun : FaultCode.unknownOpcode ≠ .noFault), fun u hu => ?_⟩
    have hbr : isBranch i = false := by
      by_contra hbr
      obtain ⟨he, -, hs⟩ := isBranch_kind (by simpa using hbr)
      simp [he, hs] at hst
    simp only [computes, hld, hbr, hst, if_true, Bool.false_eq_true, if_false]
    rfl
  have hm : c ≠ .memory := by
    rintro rfl
    exact (isMemory_of_classOf? hc).elim hld fun h => hst (.inl h)
  by_cases hbr : isBranch i = true
  · refine ⟨.finishes (branchTarget e.instr.pc (immOf i)) (branchTaken i e.op1.value), hl.2, fun u hu => ?_⟩
    simp only [computes, hld, hbr, hfinish hu, LaneOutcome.leaves_finishes hm, if_true, Bool.false_eq_true, if_false]
  by_cases hd : ∃ rd rs rt, i = .div rd rs rt
  · obtain ⟨rd, rs, rt, rfl⟩ := hd
    cases hx : divide s.cfg.divSigned e.op1.value e.op2.value with
    | ok v =>
      refine ⟨.finishes v false, hl.2, fun u hu => ?_⟩
      rw [computes, if_neg hld, if_neg hbr, if_neg hst, State.setLane_cfg, hcfg hu, hx, LaneOutcome.leaves_finishes hm]
      exact hfinish hu v false
    | error f =>
      obtain rfl := divide_error hx
      refine ⟨.faults .divFault e.instr.pc 0, (nofun : FaultCode.divFault ≠ .noFault), fun u hu => ?_⟩
      rw [computes, if_neg hld, if_neg hbr, if_neg hst, State.setLane_cfg, hcfg hu, hx]
      rfl
  · refine ⟨.finishes ((aluWord s.cfg i e.op1.value e.op2.value).getD 0) false, hl.2, fun u hu => ?_⟩
    rw [computes, if_neg hld, if_neg hbr, if_neg hst, hfinish hu, State.setLane_cfg, hcfg hu,
      LaneOutcome.leaves_finishes hm]
    exact fun rd rs rt he => hd ⟨rd, rs, rt, he⟩

/-! ## One turn, beside the turn alone -/

/-- The turn of lane `j` of class `c` from `s` alone is the model's `laneTurn`. -/
theorem State.laneTurn_eq {s t : State} {c : UnitClass} {j : Nat} (h : countLane c j s = .next t) : s.laneTurn c j = t := by
  rw [State.laneTurn, h]

theorem countLane_resting {s : State} {c : UnitClass} {j : Nat} (h : ¬(s.lane c j).Counting) :
    countLane c j s = .next s := by
  refine if_neg fun hl => h ?_
  simpa using hl

/-- The turn of a lane in countdown has the same outcome from every state that has the lane in common (R140). -/
theorem countLane_outcome {s : State} (hs : s.Fit) (hsl : s.SlotsOk) {c : UnitClass} {j : Nat}
    (hl : (s.lane c j).Counting) :
    ∃ o : LaneOutcome, o.Fits (s.lane c j) ∧ ∀ u, s.SameLane u c j →
      countLane c j u = .next (o.leaves c j (u.atPhase (.complete c j))) := by
  have hserves : s.Serves (s.lane c j).rs c := ((State.slotsOk_iff hs).1 hsl).1 (.timed c j) hl.1
  obtain ⟨i, hi, hc⟩ := Record.exists_instr?_of_unitClass? hserves.unit
  have hvisit {u : State} (hu : s.SameLane u c j) :
      s.SameLane (u.atPhase (.complete c j)) c j ∧
        countLane c j u = .next ((u.atPhase (.complete c j)).countDown c j (computes i c j)) := by
    refine ⟨⟨hu.lane, hu.rest.trans fun p hp => ?_⟩, ?_⟩
    · cases p <;> simp [Part.same, State.atPhase] at hp ⊢
    · have hentry : u.entry (u.lane c j).rs = s.entry (s.lane c j).rs := hu.entry
      rw [countLane, if_pos (by simp [hu.lane, hl.1, hl.2]), hentry, visit_eq hi, exec_at_complete rfl]
  by_cases ht : (s.lane c j).ttl - 1 = 0
  · obtain ⟨o, ho, hx⟩ := computes_outcome s ⟨hl, ht⟩ hc (s.entry (s.lane c j).rs)
    refine ⟨o, ho, fun u hu => ?_⟩
    obtain ⟨hv, hturn⟩ := hvisit hu
    rw [hturn, State.countDown_last (hv.lane ▸ hl.1) (hv.lane ▸ hl.2) (hv.lane ▸ ht), hv.entry, hx _ hv]
  · refine ⟨.counts, ht, fun u hu => ?_⟩
    obtain ⟨hv, hturn⟩ := hvisit hu
    rw [hturn, State.countDown_more (hv.lane ▸ hl.1) (hv.lane ▸ hl.2) (hv.lane ▸ ht)]
    rfl

/-- The lane after a turn with this outcome. -/
def LaneOutcome.lane (o : LaneOutcome) (l : Lane) : Lane :=
  match o with
  | .counts => { l with ttl := l.ttl - 1 }
  | .finishes v m => { l with ttl := 0, result := v, misPred := m, done := true }
  | .faults _ _ _ => { l with ttl := 0 }

theorem LaneOutcome.leaves_lane (o : LaneOutcome) (c d : UnitClass) (j k : Nat) (u : State) :
    (o.leaves c j u).lane d k = (u.setLane c j (o.lane (u.lane c j))).lane d k := by
  cases o <;> rfl

/-- `v` is what the turn of lane `j` of class `c` leaves of `u`, and this turn is as it is from `s` alone. -/
structure State.TurnAs (s u v : State) (c : UnitClass) (j : Nat) : Prop where
  own : v.lane c j = (s.laneTurn c j).lane c j
  other : ∀ d k, (d, k) ≠ (c, j) → v.lane d k = u.lane d k
  fault : v.fault = (s.laneTurn c j).fault
  faultPc : v.faultPc = (s.laneTurn c j).faultPc
  faultAddr : v.faultAddr = (s.laneTurn c j).faultAddr
  rest : s.SameExcept v [.lanes, .turn, .fault, .faultPc, .faultAddr]
  calm : (s.laneTurn c j).fault = .noFault → s.SameExcept v [.lanes, .turn] ∧
    v.turn.memDone = u.turn.memDone + if c = .memory ∧ (s.lane c j).Ending then 1 else 0

theorem State.SameLane.refl (s : State) (c : UnitClass) (j : Nat) : s.SameLane s c j :=
  ⟨rfl, fun p _ => by cases p <;> rfl⟩

theorem State.SameExcept.mono {s t : State} {parts parts' : List Part} (h : s.SameExcept t parts)
    (hp : parts ⊆ parts') : s.SameExcept t parts' :=
  fun p hn => h p fun hm => hn (hp hm)

theorem LaneOutcome.leaves_sameExcept (o : LaneOutcome) (c : UnitClass) (j : Nat) (u : State) :
    u.SameExcept (o.leaves c j u) [.lanes, .turn, .fault, .faultPc, .faultAddr] := by
  intro p hp
  cases p <;> simp at hp <;> cases o <;> rfl

/-- The fault registers after a turn come from its outcome, or are as they were. -/
theorem LaneOutcome.leaves_faultRegs (o : LaneOutcome) (c : UnitClass) (j : Nat) {s u : State}
    (hf : u.fault = s.fault) (hp : u.faultPc = s.faultPc) (ha : u.faultAddr = s.faultAddr) :
    (o.leaves c j (u.atPhase (.complete c j))).fault = (o.leaves c j (s.atPhase (.complete c j))).fault ∧
      (o.leaves c j (u.atPhase (.complete c j))).faultPc = (o.leaves c j (s.atPhase (.complete c j))).faultPc ∧
      (o.leaves c j (u.atPhase (.complete c j))).faultAddr = (o.leaves c j (s.atPhase (.complete c j))).faultAddr := by
  cases o with
  | counts => exact ⟨hf, hp, ha⟩
  | finishes v m => exact ⟨hf, hp, ha⟩
  | faults f pc addr => exact ⟨rfl, rfl, rfl⟩

theorem LaneOutcome.turnAs {o : LaneOutcome} {s u : State} {c : UnitClass} {j : Nat} (hl : (s.lane c j).Counting)
    (ho : o.Fits (s.lane c j)) (halone : s.laneTurn c j = o.leaves c j (s.atPhase (.complete c j)))
    (hu : s.SameLane u c j) : s.TurnAs u (o.leaves c j (u.atPhase (.complete c j))) c j := by
  have hown {v : State} (hv : v.lane c j = s.lane c j) :
      (o.leaves c j (v.atPhase (.complete c j))).lane c j = o.lane (s.lane c j) := by
    rw [LaneOutcome.leaves_lane, State.lane_setLane_same, ← hv]
    · rfl
    · exact State.lane_lt_of_busy (s := v) (hv ▸ hl.1)
  have hrest : s.SameExcept (u.atPhase (.complete c j)) [.lanes, .turn] := hu.rest.trans fun p hp => by
    cases p <;> simp [Part.same, State.atPhase] at hp ⊢
  have hregs := o.leaves_faultRegs c j (hu.rest .fault (by decide)) (hu.rest .faultPc (by decide))
    (hu.rest .faultAddr (by decide))
  refine ⟨by rw [halone, hown hu.lane, hown rfl], fun d k hdk => ?_, ?_, ?_, ?_,
    (hrest.mono (by decide)).trans (o.leaves_sameExcept c j _), fun hc => ?_⟩
  · rw [LaneOutcome.leaves_lane, State.lane_setLane_other _ c d j k _ hdk]
    rfl
  · exact halone ▸ hregs.1
  · exact halone ▸ hregs.2.1
  · exact halone ▸ hregs.2.2
  · cases o with
    | counts =>
      refine ⟨hrest.trans fun p hp => ?_, ?_⟩
      · cases p <;> simp [Part.same, LaneOutcome.leaves, State.setLane] at hp ⊢
      · rw [if_neg fun h => ho h.2.2]
        rfl
    | finishes v m =>
      refine ⟨hrest.trans fun p hp => ?_, ?_⟩
      · cases p <;> simp [Part.same, LaneOutcome.leaves, State.laneDone, State.setLane, State.withTurn] at hp ⊢
      · have hending : (s.lane c j).Ending := ⟨hl, ho⟩
        rw [if_congr (and_iff_left hending) rfl rfl]
        rfl
    | faults f pc addr =>
      rw [halone] at hc
      exact absurd hc ho

/-- The turn of any lane from `u` is as it is from `s` alone (R140). -/
theorem countLane_as {s u : State} (hs : s.Fit) (hsl : s.SlotsOk) {c : UnitClass} {j : Nat}
    (hu : s.SameLane u c j) : ∃ v, countLane c j u = .next v ∧ s.TurnAs u v c j := by
  by_cases hl : (s.lane c j).Counting
  · obtain ⟨o, ho, hturn⟩ := countLane_outcome hs hsl hl
    have halone := State.laneTurn_eq (hturn s (.refl s c j))
    exact ⟨_, hturn u hu, LaneOutcome.turnAs hl ho halone hu⟩
  · have halone := State.laneTurn_eq (countLane_resting hl)
    refine ⟨u, countLane_resting (hu.lane ▸ hl), ?_, fun _ _ _ => rfl, ?_, ?_, ?_, hu.rest.mono (by decide), fun _ => ?_⟩
    · rw [halone, hu.lane]
    · rw [halone, hu.rest .fault (by decide)]
    · rw [halone, hu.rest .faultPc (by decide)]
    · rw [halone, hu.rest .faultAddr (by decide)]
    · exact ⟨hu.rest, by rw [if_neg fun h => hl h.2.1]; rfl⟩

/-! ## The lanes in the order of their turns (R140) -/

/-- Every lane, in the order of X3 (R140). -/
def State.laneRefs (s : State) : List (UnitClass × Nat) :=
  UnitClass.all.flatMap fun c => (List.range (s.cfg.lanes.get c)).map (Prod.mk c)

theorem State.mem_laneRefs {s : State} {p : UnitClass × Nat} : p ∈ s.laneRefs ↔ p.2 < s.cfg.lanes.get p.1 := by
  obtain ⟨c, j⟩ := p
  have hc : c ∈ UnitClass.all := by cases c <;> decide
  simp [State.laneRefs, hc]

theorem State.laneRefs_pairwise (s : State) : s.laneRefs.Pairwise fun p q => laneBefore p.1 p.2 q.1 q.2 := by
  refine List.pairwise_flatMap.2 ⟨fun c _ => List.pairwise_map.2 ?_, ?_⟩
  · exact List.pairwise_lt_range.imp fun h => .inr ⟨rfl, h⟩
  · have horder : UnitClass.all.Pairwise fun c d => UnitClass.all.idxOf c < UnitClass.all.idxOf d := by decide
    refine horder.imp fun h p hp q hq => .inl ?_
    obtain ⟨_, -, rfl⟩ := List.mem_map.1 hp
    obtain ⟨_, -, rfl⟩ := List.mem_map.1 hq
    exact h

theorem State.laneRefs_nodup (s : State) : s.laneRefs.Nodup :=
  s.laneRefs_pairwise.imp fun h he => by
    subst he
    simp [laneBefore] at h

theorem forEach_append {α : Type} {f : α → State → Result} (l l' : List α) :
    ∀ u : State, u.fault = .noFault → forEach f (l ++ l') u = andThen (forEach f l u) (forEach f l') := by
  induction l with
  | nil => exact fun u hu => (if_pos hu).symm
  | cons x l ih =>
    intro u _
    rw [List.cons_append, forEach_cons, forEach_cons, andThen_assoc]
    cases f x u with
    | next v =>
      rw [andThen_next, andThen_next]
      split_ifs with hv
      · exact ih v hv
      · rfl
    | fault e => rfl
    | refused e => rfl

theorem forEach_map {α β : Type} (f : β → State → Result) (g : α → β) (l : List α) (u : State) :
    forEach f (l.map g) u = forEach (fun x => f (g x)) l u := by
  induction l generalizing u with
  | nil => rfl
  | cons x l ih =>
    rw [List.map_cons, forEach_cons, forEach_cons]
    exact congrArg _ (funext ih)

/-- The turns of all lanes, class by class, are the turns of the list of all lanes. -/
theorem forEach_countClass {s : State} (l : List UnitClass) :
    ∀ u : State, u.cfg = s.cfg → u.fault = .noFault → forEach countClass l u =
      forEach (fun p => countLane p.1 p.2)
        (l.flatMap fun c => (List.range (s.cfg.lanes.get c)).map (Prod.mk c)) u := by
  induction l with
  | nil => exact fun _ _ _ => rfl
  | cons c l ih =>
    intro u hc hf
    have hclass : countClass c u =
        forEach (fun p => countLane p.1 p.2) ((List.range (s.cfg.lanes.get c)).map (Prod.mk c)) u := by
      rw [forEach_map, countClass, hc]
    obtain ⟨v, hv, hcfg, -⟩ := forEach_nextKeepsSetup (fun p => countLane_nextKeepsSetup p.1 p.2)
      ((List.range (s.cfg.lanes.get c)).map (Prod.mk c)) u
    rw [List.flatMap_cons, forEach_append _ _ u hf, forEach_cons, hclass, hv, andThen_next, andThen_next]
    split_ifs with hvf
    · exact ih v (hcfg.trans hc) hvf
    · rfl

/-! ## The turns of several lanes -/

/-- `t` is what the turns of the lanes `l` leave of `u`, each as it is from `s` alone and none raising a fault. -/
structure State.TurnsAs (s u t : State) (l : List (UnitClass × Nat)) : Prop where
  own : ∀ p ∈ l, t.lane p.1 p.2 = (s.laneTurn p.1 p.2).lane p.1 p.2
  other : ∀ p ∉ l, t.lane p.1 p.2 = u.lane p.1 p.2
  rest : s.SameExcept t [.lanes, .turn]
  memDone : t.turn.memDone = u.turn.memDone + l.countP fun p => p.1 = .memory ∧ (s.lane p.1 p.2).Ending

theorem countLanes_turnsAs {s : State} (hs : s.Fit) (hsl : s.SlotsOk) {l : List (UnitClass × Nat)} (hl : l.Nodup)
    (hf : s.fault = .noFault) (hcalm : ∀ p ∈ l, (s.laneTurn p.1 p.2).fault = .noFault) :
    ∀ u : State, s.SameExcept u [.lanes, .turn] → (∀ p ∈ l, u.lane p.1 p.2 = s.lane p.1 p.2) →
      ∃ t, forEach (fun p => countLane p.1 p.2) l u = .next t ∧ s.TurnsAs u t l := by
  induction l with
  | nil => exact fun u hu _ => ⟨u, rfl, nofun, fun _ _ => rfl, hu, rfl⟩
  | cons p l ih =>
    intro u hu hlanes
    obtain ⟨hp, hl⟩ := List.nodup_cons.1 hl
    obtain ⟨v, hv, hturn⟩ := countLane_as hs hsl ⟨hlanes p (by simp), hu⟩
    obtain ⟨hrest, hdone⟩ := hturn.calm (hcalm p (by simp))
    have hsame (q : UnitClass × Nat) (hq : q ≠ p) : v.lane q.1 q.2 = u.lane q.1 q.2 := hturn.other q.1 q.2 hq
    obtain ⟨t, ht, hts⟩ := ih hl (fun q hq => hcalm q (by simp [hq])) v hrest fun q hq => by
      rw [hsame q fun he => hp (he ▸ hq), hlanes q (by simp [hq])]
    refine ⟨t, ?_, fun q hq => ?_, fun q hq => ?_, hts.rest, ?_⟩
    · rw [forEach_cons, hv, andThen_next, if_pos ((hrest .fault (by decide)).trans hf), ht]
    · obtain rfl | hq := List.mem_cons.1 hq
      · rw [hts.other q hp, hturn.own]
      · exact hts.own q hq
    · obtain ⟨hqp, hql⟩ := List.ne_and_not_mem_of_not_mem_cons hq
      rw [hts.other q hql, hsame q hqp]
    · rw [hts.memDone, hdone, List.countP_cons]
      simp only [decide_eq_true_eq]
      omega

/-- The turns up to the first that raises a fault: it ends them, with the fault it raises alone (R312). -/
theorem countLanes_fault {s : State} (hs : s.Fit) (hsl : s.SlotsOk) (hf : s.fault = .noFault)
    {l l' : List (UnitClass × Nat)} {p : UnitClass × Nat} (hl : (l ++ p :: l').Nodup)
    (hcalm : ∀ q ∈ l, (s.laneTurn q.1 q.2).fault = .noFault) (hp : (s.laneTurn p.1 p.2).fault ≠ .noFault) {u : State}
    (hu : s.SameExcept u [.lanes, .turn]) (hlanes : u.lanes = s.lanes) :
    ∃ v t, forEach (fun q => countLane q.1 q.2) (l ++ p :: l') u = .next t ∧ s.TurnAs v t p.1 p.2 := by
  have hlane (q : UnitClass × Nat) : u.lane q.1 q.2 = s.lane q.1 q.2 := by rw [State.lane, hlanes, State.lane]
  obtain ⟨hnd, -, hdisj⟩ := List.nodup_append.1 hl
  obtain ⟨v, hv, hvs⟩ := countLanes_turnsAs hs hsl hnd hf hcalm u hu fun q _ => hlane q
  have hpl : p ∉ l := fun hm => hdisj p hm p (by simp) rfl
  obtain ⟨t, ht, hturn⟩ := countLane_as hs hsl ⟨(hvs.other p hpl).trans (hlane p), hvs.rest⟩
  refine ⟨v, t, ?_, hturn⟩
  rw [forEach_append _ _ u ((hu .fault (by decide)).trans hf), hv, andThen_next,
    if_pos ((hvs.rest .fault (by decide)).trans hf), forEach_cons, ht, andThen_next,
    if_neg fun h => hp (hturn.fault ▸ h)]

/-- Counting members of a list is counting their indices. -/
theorem countP_range_getD {α : Type} (q : α → Bool) (l : List α) (d : α) :
    (List.range l.length).countP (fun k => q (l[k]?.getD d)) = l.countP q := by
  have hl : (List.range l.length).map (fun k => l[k]?.getD d) = l :=
    List.ext_getElem (by simp) fun k hk hk' => by simp [hk']
  conv_rhs => rw [← hl, List.countP_map]
  rfl

/-- The loads whose countdown ends, counted along the lanes (R145). -/
theorem State.countP_laneRefs {s : State} (hs : s.Fit) :
    (s.laneRefs.countP fun p => p.1 = .memory ∧ (s.lane p.1 p.2).Ending) = s.loadsEnding := by
  have hmem : (s.laneRefs.countP fun p => p.1 = .memory ∧ (s.lane p.1 p.2).Ending) =
      (List.range (s.cfg.lanes.get .memory)).countP fun k => decide (s.lane .memory k).Ending := by
    simp [State.laneRefs, UnitClass.all, List.countP_map, Function.comp_def]
  have hending (l : Lane) : (l.busy && !l.done && decide (l.ttl < 2)) = decide l.Ending := by
    rw [Bool.eq_iff_iff]
    simp only [Bool.and_eq_true, Bool.not_eq_true', decide_eq_true_eq]
    exact and_congr_right fun _ => by omega
  rw [hmem, ← hs.laneCount .memory, State.loadsEnding, ← List.countP_eq_length_filter]
  simp only [hending]
  exact countP_range_getD (fun l : Lane => decide l.Ending) (s.lanes.get .memory) Lane.empty

theorem State.counting_mem_laneRefs {s : State} (hs : s.Fit) {c : UnitClass} {j : Nat}
    (h : (s.lane c j).Counting) : (c, j) ∈ s.laneRefs :=
  State.mem_laneRefs.2 (hs.laneCount c ▸ State.lane_lt_of_busy h.1)

/-- The state X3 starts its lanes from. -/
def State.portOpen (s : State) : State := s.withTurn { s.turn with memDone := 0 }

theorem State.portOpen_sameExcept (s : State) : s.SameExcept s.portOpen [.lanes, .turn] := fun p hp => by
  cases p <;> simp [Part.same, State.portOpen, State.withTurn] at hp ⊢

theorem countPhase_eq {s : State} (hf : s.fault = .noFault) :
    countPhase s = andThen (forEach (fun p => countLane p.1 p.2) s.laneRefs s.portOpen) finishCompletions :=
  congrArg (andThen · finishCompletions) (forEach_countClass UnitClass.all s.portOpen rfl hf)

/-- X3 where no lane's turn raises a fault. -/
theorem countPhase_calm {s : State} (hs : s.Fit) (hsl : s.SlotsOk) (hf : s.fault = .noFault)
    (hcalm : ∀ c j, (s.laneTurn c j).fault = .noFault) :
    ∃ v, countPhase s = finishCompletions v ∧ s.SameExcept v [.lanes, .turn] ∧
      (∀ c j, v.lane c j = (s.laneTurn c j).lane c j) ∧ v.turn.memDone = s.loadsEnding := by
  obtain ⟨v, hv, hvs⟩ := countLanes_turnsAs hs hsl s.laneRefs_nodup hf (fun p _ => hcalm p.1 p.2) s.portOpen
    s.portOpen_sameExcept fun _ _ => rfl
  refine ⟨v, ?_, hvs.rest, fun c j => ?_, ?_⟩
  · rw [countPhase_eq hf, hv, andThen_next, if_pos ((hvs.rest .fault (by decide)).trans hf)]
  · by_cases hm : (c, j) ∈ s.laneRefs
    · exact hvs.own (c, j) hm
    · rw [State.laneTurn_eq (countLane_resting fun hl => hm (State.counting_mem_laneRefs hs hl))]
      exact hvs.other (c, j) hm
  · rw [hvs.memDone, State.countP_laneRefs hs]
    exact Nat.zero_add _

/-- X3 where the turn of lane `j` of class `c` is the first to raise a fault (R312). -/
theorem countPhase_fault {s : State} (hs : s.Fit) (hsl : s.SlotsOk) (hf : s.fault = .noFault) {c : UnitClass} {j : Nat}
    (hfault : (s.laneTurn c j).fault ≠ .noFault)
    (hfirst : ∀ c' j', laneBefore c' j' c j → (s.laneTurn c' j').fault = .noFault) :
    ∃ v t, countPhase s = .next t ∧ s.TurnAs v t c j := by
  have hl : (s.lane c j).Counting := by
    by_contra hl
    rw [State.laneTurn_eq (countLane_resting hl)] at hfault
    exact hfault hf
  obtain ⟨l, l', hsplit⟩ := List.append_of_mem (State.counting_mem_laneRefs hs hl)
  have hbefore (q : UnitClass × Nat) (hq : q ∈ l) : laneBefore q.1 q.2 c j :=
    (List.pairwise_append.1 (hsplit ▸ s.laneRefs_pairwise)).2.2 q hq (c, j) (by simp)
  obtain ⟨v, t, ht, hturn⟩ := countLanes_fault hs hsl hf (hsplit ▸ s.laneRefs_nodup)
    (fun q hq => hfirst q.1 q.2 (hbefore q hq)) hfault s.portOpen_sameExcept rfl
  refine ⟨v, t, ?_, hturn⟩
  rw [countPhase_eq hf, hsplit, ht, andThen_next, if_neg fun h => hfault (hturn.fault ▸ h)]

/-- Settles O17: the turns of the lanes do not meet, so the whole of X3 is each of them taken alone, up to the first
fault. -/
theorem countdownContinues : Obligations.CountdownContinues := by
  unfold Obligations.CountdownContinues
  refine ⟨fun s i c j hp => ⟨fun n hb hd ht => ?_, fun hidle => ?_⟩, fun s hr hsl hf => ?_⟩
  · rw [exec_at_complete hp, State.countDown_more hb hd (by omega), ht]
    rfl
  · rw [exec_at_complete hp, State.countDown_idle (by obtain h | h := hidle <;> simp [h])]
  · have hs : s.Fit := State.runnable_iff_fit.1 hr
    obtain ⟨t, ht, -⟩ := countPhase_nextKeepsSetup s
    refine ⟨t, ht, fun hcalm => ?_, fun c j hfault hfirst => ?_⟩
    · obtain ⟨v, hv, hrest, hlanes, hdone⟩ := countPhase_calm hs hsl hf hcalm
      obtain ⟨t', ht', hbyp, hone, htwo⟩ := bypassSlotsFinish v
      obtain rfl : t' = t := Host.Outcome.next.inj (ht'.symm.trans (hv.symm.trans ht))
      have hlane (c : UnitClass) (j : Nat) : t'.lane c j = v.lane c j := by
        rw [State.lane, (finishCompletions_lanes ht').1, State.lane]
      have hbypSlot (j : Nat) : v.bypSlot j = s.bypSlot j := by
        rw [State.bypSlot, hrest .byp (by decide), State.bypSlot]
      refine ⟨fun c j => (hlane c j).trans (hlanes c j), fun j => hbypSlot j ▸ hbyp j, fun hle => ?_, fun hlt => ?_⟩
      · exact (hrest.mono (by decide)).trans ((hone (hdone ▸ hle)).mono (by decide))
      · obtain ⟨hcode, hpc, haddr, hsame⟩ := htwo (hdone ▸ hlt)
        exact ⟨hcode, hpc, haddr, (hrest.mono (by decide)).trans (hsame.mono (by decide))⟩
    · obtain ⟨v, t', ht', hturn⟩ := countPhase_fault hs hsl hf hfault hfirst
      obtain rfl : t' = t := Host.Outcome.next.inj (ht'.symm.trans ht)
      exact ⟨hturn.fault, hturn.faultPc, hturn.faultAddr, hturn.rest⟩

end Sys2Proof.Machine
end

section
/-! PROOFS. What C writes of the committed state, and that the later phases write none of it (43:R160 to R165,
42:R161). -/

namespace Sys2Proof.Machine

/-! ## C -/

/-- What C writes of the committed state of `s`, in which the head's destination is `dst` and `store` says whether it is
a store: the value of `dst`, and the head's word (R161 to R165). -/
structure State.CommitWrites (s u : State) (dst : Option RegName) (store : Bool) : Prop where
  reg : ∀ q, (u.reg q).value =
    if s.headReady = true ∧ dst = some q then s.headSlot.value else (s.reg q).value
  mem : u.mem = s.mem ∨ (s.headReady = true ∧ store = true ∧
    u.mem = s.mem.writeWord s.headSlot.addr.toNat s.headSlot.value)
  stall : s.headReady = false → u.rob = s.rob ∧ u.committed = s.committed
  count : u.committed = s.committed ∨ u.committed = s.committed + 1

/-- A head that is not ready, or that has no destination, may write nothing. -/
theorem State.CommitWrites.stays {s : State} {dst : Option RegName} (h : s.headReady = false ∨ dst = none)
    (store : Bool) : s.CommitWrites s dst store := by
  refine ⟨fun q => ?_, .inl rfl, fun _ => ⟨rfl, rfl⟩, .inl rfl⟩
  obtain h | h := h <;> simp [h]

/-- A ready head without a destination changes no register's value. -/
theorem State.CommitWrites.ofReady {s u : State} (hr : s.headReady = true) {store : Bool}
    (hreg : ∀ q, (u.reg q).value = (s.reg q).value)
    (hmem : u.mem = s.mem ∨ (store = true ∧ u.mem = s.mem.writeWord s.headSlot.addr.toNat s.headSlot.value))
    (hcount : u.committed = s.committed ∨ u.committed = s.committed + 1) : s.CommitWrites u none store where
  reg q := (hreg q).trans (if_neg fun h => nomatch h.2).symm
  mem := hmem.imp_right fun h => ⟨hr, h⟩
  stall h := absurd (h.symm.trans hr) nofun
  count := hcount

theorem State.popAndCount_writes {s : State} (h : s.rob.count ≠ 0) :
    s.popAndCount.mem = s.mem ∧ s.popAndCount.committed = s.committed + 1 := by
  rw [State.popAndCount_of_ne h]
  exact ⟨rfl, rfl⟩

theorem State.commitResult_writes (s : State) (dst : Option RegName) :
    s.CommitWrites (s.commitResult dst) dst false := by
  cases hr : s.headReady
  · rw [State.commitResult_stall hr]
    exact .stays (.inl hr) false
  have hf := (State.HeadFrame.stampCommit s).trans (.commitReg _ dst)
  have hc := (hf.headReady hr).1
  obtain ⟨hmem, hcount⟩ := State.popAndCount_writes hc
  rw [State.commitResult_ready hr]
  refine ⟨fun q => ?_, .inl ?_, fun h => absurd (h.symm.trans hr) nofun, .inr (hcount.trans ?_)⟩
  · rw [State.popAndCount_reg hc, State.reg_commitReg, (State.HeadFrame.stampCommit s).headSlot.value,
      State.reg_stampCommit]
    simp only [hr, true_and]
    split_ifs <;> rfl
  · rw [hmem, State.commitReg_mem, State.stampCommit_mem]
  · rw [hf.committed]

theorem State.commitBranch_writes (s : State) : s.CommitWrites s.commitBranch none false := by
  cases hr : s.headReady
  · rw [State.commitBranch_stall hr]
    exact .stays (.inl hr) false
  have hf := State.HeadFrame.stampCommit s
  have hc := (hf.headReady hr).1
  unfold State.commitBranch
  simp only [hr, if_true]
  split_ifs
  · refine .ofReady hr (fun q => ?_) (.inl ?_) (.inr ?_)
    · rw [State.reg_squash]
      dsimp only
      exact congrArg RegEntry.value (s.reg_stampCommit q)
    · exact (State.squash_mem ..).trans s.stampCommit_mem
    · rw [State.squash_committed, hf.committed]
  · obtain ⟨hmem, hcount⟩ := State.popAndCount_writes hc
    refine .ofReady hr (fun q => ?_) (.inl (hmem.trans s.stampCommit_mem)) (.inr ?_)
    · rw [State.popAndCount_reg hc, State.reg_stampCommit]
    · rw [hcount, hf.committed]

theorem State.commitStore_writes (s : State) : s.CommitWrites s.commitStore none true := by
  cases hr : s.headReady
  · rw [State.commitStore_stall hr]
    exact .stays (.inl hr) true
  have hf := (State.HeadFrame.stampCommit s).trans (.storeCountdown _)
  have hreg : ∀ r, s.stampCommit.storeCountdown.reg r = s.reg r := s.reg_stampCommit
  have hmem : s.stampCommit.storeCountdown.mem = s.mem := s.stampCommit_mem
  rw [State.commitStore_ready hr]
  generalize s.stampCommit.storeCountdown = u at hf hreg hmem ⊢
  split_ifs
  · exact .ofReady hr (fun q => by rw [hreg]) (.inl hmem) (.inl hf.committed)
  obtain ⟨f, -, e⟩ | ⟨-, e⟩ := u.storeWrite_cases <;> rw [e]
  · exact .ofReady hr (fun q => congrArg RegEntry.value (hreg q)) (.inl hmem) (.inl hf.committed)
  · have hw := hf.trans (.storeWritten u (u.mem.writeWord u.headSlot.addr.toNat u.headSlot.value))
    have hc := (hw.headReady hr).1
    obtain ⟨hpop, hcount⟩ := State.popAndCount_writes hc
    refine .ofReady hr (fun q => ?_) (.inr ⟨rfl, hpop.trans ?_⟩) (.inr (hcount.trans ?_))
    · rw [State.popAndCount_reg hc]
      exact congrArg RegEntry.value (hreg q)
    · dsimp only
      rw [hmem, hf.headSlot.addr, hf.headSlot.value]
    · exact congrArg (· + 1) hf.committed

/-- The turn of the head in C, by the kind of its instruction. -/
theorem exec_commit_writes {s t : State} {i : Instr} (hp : s.turn.phase = .commit) (h : exec i s = .next t) :
    s.CommitWrites t (dest? i) (isStore i) := by
  cases (exec_at_commit hp i).symm.trans h
  split_ifs with he hst hb
  · exact .stays (.inr (he ▸ rfl)) _
  · rw [dest?_of_isStore hst, hst]
    exact s.commitStore_writes
  · rw [dest?_of_isBranch hb, (isBranch_kind hb).2.2]
    exact s.commitBranch_writes
  · rw [Bool.not_eq_true] at hst
    rw [hst]
    exact s.commitResult_writes _

theorem commitPhase_writes {s t : State} (h : commitPhase s = .next t) :
    s.CommitWrites t (destOfRecord s.headSlot.instr) s.headSlot.instr.opIsStore := by
  unfold commitPhase at h
  split_ifs at h with hc
  · cases h
    exact .stays (.inl (by simp [State.headReady, hc])) _
  cases hi : s.headSlot.instr.instr? with
  | some i =>
    rw [destOfRecord_eq hi, Record.opIsStore_of_instr? hi]
    exact { exec_commit_writes (s.atPhase_phase _) ((visit_eq hi).symm.trans h) with }
  | none =>
    have hd : destOfRecord s.headSlot.instr = none := by simp [destOfRecord, hi]
    simp only [visit, hi] at h
    cases h
    exact { State.CommitWrites.stays (s := s) (.inr hd) s.headSlot.instr.opIsStore with }

/-! ## From W to F -/

/-- The committed state and the oldest instruction in flight are those of `s` (R165). -/
structure State.SameHead (s t : State) : Prop extends s.SameCommitted t where
  head : t.rob.head = s.rob.head

theorem State.SameHead.trans {s t u : State} (h : s.SameHead t) (h' : t.SameHead u) : s.SameHead u :=
  ⟨h.toSameCommitted.trans h'.toSameCommitted, h'.head.trans h.head⟩

theorem issueOne_head {s t : State} (h : issueOne s = .next t) : t.rob.head = s.rob.head := by
  obtain ⟨τ, ho⟩ := issueOne_outcome h
  cases ho with
  | stops => rfl
  | faults => rfl
  | @allocates i c k r => exact ((s.withTurn τ).allocated_fields i c k r).2.1

theorem issuePhase_sameHead {s t : State} (h : issuePhase s = .next t) : s.SameHead t where
  toSameCommitted := .ofIssuePhase h
  head := issueLoop_keeps (P := fun u => u.rob.head = s.rob.head) (fun _ _ hu h => (issueOne_head h).trans hu)
    _ (s.withTurn { s.turn with issued := 0 }) t rfl h

/-- After C, no later phase of a step writes the committed state (R165). -/
theorem step_sameHead {s u t : State} (hf : s.fault = .noFault)
    (hu : commitPhase { s with turn := Turn.start } = .next u) (h : step s = .next t) : u.SameHead t := by
  obtain ⟨v, hbefore, h⟩ := step_phases hf h
  obtain ⟨u', hu', hrun⟩ := beforeIssue_run hbefore
  cases hu.symm.trans hu'
  have hv : u.SameHead v := ⟨.ofExec hrun.frame, hrun.frame.head⟩
  obtain ⟨-, rfl⟩ | ⟨-, h⟩ := h
  · exact hv
  obtain ⟨w, hw, h⟩ := fromIssue_cases h
  have huw := hv.trans (issuePhase_sameHead hw)
  obtain ⟨-, rfl⟩ | ⟨-, rfl⟩ := h
  · exact huw
  · exact huw.trans ⟨⟨rfl, rfl⟩, rfl⟩

/-- Settles O54: the phases after C keep the committed state, and C writes what the kind of a ready head says. -/
theorem commitAloneWritesArchitecture : Obligations.CommitAloneWritesArchitecture := by
  unfold Obligations.CommitAloneWritesArchitecture
  intro s u t _ hf hu h
  have hlater := step_sameHead hf hu h
  have hc := commitPhase_writes hu
  exact ⟨fun q => congrFun (congrArg Arch.reg hlater.archHead) q, congrArg Arch.mem hlater.archHead, hlater.head,
    hlater.committed, hc.reg, hc.mem, hc.stall, hc.count⟩

end Sys2Proof.Machine
end

section
/-! PROOFS. The turn of the ROB head in C, by the kind of its instruction, with everything it leaves unchanged
(43:R160 to R164, R170). -/

namespace Sys2Proof.Machine

/-! ## The frame of each action of C -/

/-- One action after another leaves unchanged what both do. -/
theorem State.SameExcept.append {s t u : State} {parts parts' : List Part} (h : s.SameExcept t parts)
    (h' : t.SameExcept u parts') : s.SameExcept u (parts ++ parts') :=
  (h.mono (List.subset_append_left ..)).trans (h'.mono (List.subset_append_right ..))

theorem State.stampCommit_sameExcept (s : State) : s.SameExcept s.stampCommit [.rob] := by
  intro p hp
  obtain h | h := s.stampCommit_cases <;> rw [h] <;> cases p <;> simp [Part.same] at hp ⊢

theorem State.commitReg_sameExcept (s : State) (dst : Option RegName) :
    s.SameExcept (s.commitReg dst) [.gpr, .fpr] := by
  intro p hp
  cases dst <;> cases p <;> simp [Part.same, State.commitReg] at hp ⊢

theorem State.storeCountdown_sameExcept (s : State) : s.SameExcept s.storeCountdown [.rob, .memBlock] := by
  intro p hp
  cases p <;> simp [Part.same, State.storeCountdown] at hp ⊢

theorem State.popAndCount_sameExcept {s : State} (h : s.rob.count ≠ 0) :
    s.SameExcept s.popAndCount [.rob, .committed] := by
  intro p hp
  rw [State.popAndCount_of_ne h]
  cases p <;> simp [Part.same] at hp ⊢

theorem State.squash_sameExcept (s : State) (w : Word) :
    s.SameExcept (s.squash w) [.pc, .lanes, .byp, .rs, .rob, .gpr, .fpr] := by
  intro p hp
  cases p <;> simp [Part.same] at hp ⊢

/-! ## A popped head -/

/-- `t` is `s` with the head popped and counted; `x` is what its slot held before the pop (R33, R160). -/
structure State.PopsHead (s t : State) (x : RobSlot) : Prop where
  head : t.rob.head = (s.rob.head + 1) % s.cfg.robSize
  count : t.rob.count = s.rob.count - 1
  tail : t.rob.tail = s.rob.tail
  slot : t.slot s.rob.head = { x with live := false }
  others : ∀ u, u ≠ s.rob.head → t.slot u = s.slot u
  committed : t.committed = s.committed + 1

/-- A pop after the head's slot, and no other, was written. -/
theorem State.popAndCount_popsHead {s u : State} {x : RobSlot} (hc : s.rob.count ≠ 0)
    (hh : s.rob.head < s.rob.slots.length) (hrob : u.rob = (s.setSlot s.rob.head x).rob) (hcfg : u.cfg = s.cfg)
    (hcount : u.committed = s.committed) : s.PopsHead u.popAndCount x := by
  have hslot (v : Nat) : u.slot v = (s.setSlot s.rob.head x).slot v := by simp only [State.slot, hrob]
  have hx : u.headSlot = x := by
    rw [State.headSlot, hslot, hrob, State.setSlot_head, State.slot_setSlot, if_pos ⟨rfl, hh⟩]
  rw [State.popAndCount_of_ne (by rwa [hrob]), hx]
  refine ⟨?_, ?_, ?_, ?_, fun v hv => ?_, congrArg (· + 1) hcount⟩
  · rw [hrob, hcfg]
    rfl
  · rw [hrob]
    rfl
  · rw [hrob]
    rfl
  · refine (getD_set ..).trans (if_pos ?_)
    rw [hrob]
    exact ⟨rfl, by simpa using hh⟩
  · refine (getD_set ..).trans ((if_neg ?_).trans ((hslot v).trans ?_))
    · rw [hrob]
      exact fun h => hv h.1
    · rw [State.slot_setSlot, if_neg fun h => hv h.1.symm]

/-! ## The head's turn -/

theorem State.Committing.headReady {s : State} (h : s.Committing) : s.headReady = true := by
  simp [State.headReady, h.2.1, h.2.2.1]

theorem exec_store_at_commit {s : State} {i : Instr} (hp : s.turn.phase = .commit) (hi : isStore i = true) :
    exec i s = .next s.commitStore := by
  rw [exec_at_commit hp, if_neg (isStore_ne_eop hi), if_pos hi]

theorem exec_branch_at_commit {s : State} {i : Instr} (hp : s.turn.phase = .commit) (hi : isBranch i = true) :
    exec i s = .next s.commitBranch := by
  obtain ⟨he, -, hs⟩ := isBranch_kind hi
  rw [exec_at_commit hp, if_neg he, hs, if_neg Bool.false_ne_true, if_pos hi]

theorem exec_result_at_commit {s : State} {i : Instr} {r : RegName} (hp : s.turn.phase = .commit)
    (hd : dest? i = some r) : exec i s = .next (s.commitResult (some r)) := by
  have he : i ≠ .eop := by
    rintro rfl
    cases hd
  have hs : ¬isStore i = true := fun h => nomatch (dest?_of_isStore h).symm.trans hd
  have hb : ¬isBranch i = true := fun h => nomatch (dest?_of_isBranch h).symm.trans hd
  rw [exec_at_commit hp, if_neg he, if_neg hs, if_neg hb, hd]

/-- Settles O30: every action of C asks for a ready head first. -/
theorem headNotReadyStalls : Obligations.HeadNotReadyStalls := by
  unfold Obligations.HeadNotReadyStalls
  intro s i hp hn
  have hr : s.headReady = false := by obtain h | h := hn <;> simp [State.headReady, h]
  rw [exec_at_commit hp, State.commitStore_stall hr, State.commitBranch_stall hr, State.commitResult_stall hr, ite_self,
    ite_self, ite_self]

/-- Settles O31: the head is stamped, its destination written, and the stamped head popped. -/
theorem commitWritesDestination : Obligations.CommitWritesDestination := by
  unfold Obligations.CommitWritesDestination
  intro s i r h hd
  have hr := State.Committing.headReady h
  obtain ⟨hp, hc, -, hh⟩ := h
  have hf := (State.HeadFrame.stampCommit s).trans (.commitReg _ (some r))
  have hne := (hf.headReady hr).1
  have hrob : (s.stampCommit.commitReg (some r)).rob = (s.setSlot s.rob.head s.stampedHead).rob := by
    rw [← State.stampCommit_eq hh]
    exact State.setReg_rob ..
  have hpop := State.popAndCount_popsHead hc hh hrob hf.cfg hf.committed
  refine ⟨_, (exec_result_at_commit hp hd).trans (congrArg _ (State.commitResult_ready hr _)), ?_, fun q hq => ?_,
    hpop.head, hpop.count, hpop.tail, hpop.slot, hpop.others, hpop.committed, ?_⟩
  · rw [State.popAndCount_reg hne, State.reg_commitReg, if_pos rfl, State.reg_stampCommit,
      State.headSlot_stampCommit hh, s.stampCommit_sameRing.head]
    cases (s.reg r).busy <;> by_cases ht : (s.reg r).tag = s.rob.head <;>
      simp [ht, State.stampedHead]
  · rw [State.popAndCount_reg hne, State.reg_commitReg, if_neg fun h => hq (Option.some.inj h).symm,
      State.reg_stampCommit]
  · have hdst := s.stampCommit.commitReg_sameExcept (some r)
    exact ((s.stampCommit_sameExcept.append hdst).append (State.popAndCount_sameExcept hne)).mono (by decide)

/-- Settles O32: the stamped head is popped. -/
theorem untakenBranchRetires : Obligations.UntakenBranchRetires := by
  unfold Obligations.UntakenBranchRetires
  intro s i h hb hm
  have hr := State.Committing.headReady h
  obtain ⟨hp, hc, -, hh⟩ := h
  have hf := State.HeadFrame.stampCommit s
  have hpop := State.popAndCount_popsHead hc hh (congrArg State.rob (State.stampCommit_eq hh)) hf.cfg hf.committed
  have hexec : exec i s = .next s.stampCommit.popAndCount := by
    simp [exec_branch_at_commit hp hb, State.commitBranch, hr, hf.headSlot.misPred, hm]
  exact ⟨_, hexec, hpop.head, hpop.count, hpop.tail, hpop.slot, hpop.others, hpop.committed,
    (s.stampCommit_sameExcept.append (State.popAndCount_sameExcept (hf.headReady hr).1)).mono (by decide)⟩

/-- Settles O33: the head is stamped and counted, and the squash read accessor by accessor. -/
theorem takenBranchSquashes : Obligations.TakenBranchSquashes := by
  unfold Obligations.TakenBranchSquashes
  intro s i h hb hm
  have hr := State.Committing.headReady h
  obtain ⟨hp, -, -, hh⟩ := h
  have hf := State.HeadFrame.stampCommit s
  have hexec : exec i s =
      .next ({ s.stampCommit with committed := s.stampCommit.committed + 1 }.squash s.headSlot.value) := by
    simp [exec_branch_at_commit hp hb, State.commitBranch, hr, hf.headSlot.misPred, hf.headSlot.value, hm]
  rw [State.stampCommit_eq hh] at hexec
  refine ⟨_, hexec, State.squash_pc .., State.squash_committed .., fun c j => State.lane_squash .., fun j =>
    State.bypSlot_squash .., fun e => State.entry_squash .., fun u => ?_, ?_, ?_, ?_, fun q => ?_, ?_⟩
  · rw [State.slot_squash]
    refine congrArg (fun x : RobSlot => { x with live := false }) ((State.slot_setSlot ..).trans ?_)
    simp only [hh, and_true, eq_comm]
  · rw [State.squash_rob]
    rfl
  · rw [State.squash_rob]
    rfl
  · rw [State.squash_rob]
  · rw [State.reg_squash]
    exact congrArg (fun x : RegEntry => { x with busy := false }) (s.reg_setSlot s.rob.head s.stampedHead q)
  · have hcount : s.SameExcept { s.setSlot s.rob.head s.stampedHead with committed := s.committed + 1 }
        [.rob, .committed] := by
      intro p hp
      cases p <;> simp [Part.same] at hp ⊢
    exact (hcount.append (State.squash_sameExcept _ s.headSlot.value)).mono (by decide)

/-! ## Stores -/

/-- Settles O34: a countdown that has not ended leaves the store at the head. -/
theorem storeHoldsTheHead : Obligations.StoreHoldsTheHead := by
  unfold Obligations.StoreHoldsTheHead
  intro s i n h hi hn
  have hr := State.Committing.headReady h
  obtain ⟨hp, -, -, hh⟩ := h
  have hhead := State.headSlot_countedDown hh
  rw [hn] at hhead
  have hring := s.stampCommit_sameRing.trans s.stampCommit.storeCountdown_sameRing
  have hexec : exec i s = .next s.stampCommit.storeCountdown := by
    rw [exec_store_at_commit hp hi, State.commitStore_ready hr, hhead]
    rfl
  exact ⟨_, hexec, hhead, State.memBlock_countedDown hh, hring.head, hring.count, hring.tail,
    fun u hu => State.slot_countedDown hh hu,
    (s.stampCommit_sameExcept.append s.stampCommit.storeCountdown_sameExcept).mono (by decide)⟩

/-- A commit cycle of a store writes the ROB at the head's slot only (R160, R164). -/
theorem State.rob_countedDown {s : State} (h : s.rob.head < s.rob.slots.length) :
    s.stampCommit.storeCountdown.rob =
      (s.setSlot s.rob.head { s.stampedHead with stctr := some (s.storeCyclesLeft - 1) }).rob := by
  rw [State.storeCountdown, State.headSlot_stampCommit h, State.stampCommit_eq h]
  simp only [State.setSlot, List.set_set]
  rfl

/-- `s` after the last commit cycle of the store at the head, but for the pop: the cycle counted and the word written
(R164). -/
def State.wordStored (s : State) : State :=
  { s.stampCommit.storeCountdown with
    mem := s.mem.writeWord s.headSlot.addr.toNat s.headSlot.value, memBlock := false }

theorem State.wordStored_sameExcept (s : State) : s.SameExcept s.wordStored [.mem, .memBlock, .rob] := by
  have hwrite : s.stampCommit.storeCountdown.SameExcept s.wordStored [.mem, .memBlock] := by
    intro p hp
    cases p <;> simp [Part.same, State.wordStored] at hp ⊢
  exact ((s.stampCommit_sameExcept.append s.stampCommit.storeCountdown_sameExcept).append hwrite).mono (by decide)

/-- The last commit cycle of a store whose access is good. -/
theorem exec_store_writes {s : State} {i : Instr} (h : s.Committing) (hi : isStore i = true)
    (hl : s.storeCyclesLeft = 1) (ha : accessFault s.cfg s.headSlot.addr = none) :
    exec i s = .next s.wordStored.popAndCount := by
  have hr := State.Committing.headReady h
  obtain ⟨hp, -, -, hh⟩ := h
  have hhead := State.headSlot_countedDown hh
  have hmem : s.stampCommit.storeCountdown.mem = s.mem := s.stampCommit_mem
  have hcfg : s.stampCommit.storeCountdown.cfg = s.cfg := s.stampCommit_sameSetup.1
  rw [exec_store_at_commit hp hi, State.commitStore_ready hr, hhead, hl]
  obtain ⟨f, hf, -⟩ | ⟨-, e⟩ := s.stampCommit.storeCountdown.storeWrite_cases
  · rw [hhead, hcfg] at hf
    cases ha.symm.trans hf
  · rw [e, hhead, hmem]
    rfl

/-- Settles O35: the one good access of a store, at the head's own address, and the pop of the counted-down head. -/
theorem storeWritesItsWord : Obligations.StoreWritesItsWord := by
  unfold Obligations.StoreWritesItsWord
  rintro s i a h hi hl hm rfl ha hrange
  have hexec := exec_store_writes h hi hl (accessFault_eq_none.2 ⟨ha, hrange⟩)
  obtain ⟨-, hc, -, hh⟩ := h
  have hframe := s.wordStored_sameExcept
  have hrob : s.wordStored.rob = _ := State.rob_countedDown hh
  have hne : s.wordStored.rob.count ≠ 0 := hrob ▸ hc
  have hpop := State.popAndCount_popsHead hc hh hrob (hframe .cfg (by decide)) (hframe .committed (by decide))
  have hkept := State.popAndCount_sameExcept hne
  have hmem : s.wordStored.popAndCount.mem = s.mem.writeWord s.headSlot.addr.toNat s.headSlot.value :=
    hkept .mem (by decide)
  refine ⟨_, hexec, fun k hk => ?_, fun b hb => ?_, ?_, hkept .memBlock (by decide), hpop.head, hpop.count, hpop.tail,
    ?_, hpop.others, hpop.committed, (hframe.append hkept).mono (by decide)⟩
  · rw [hmem, Memory.read_writeWord_byte hm _ _ hk]
  · rw [hmem, Memory.read_writeWord_outside hm _ hb]
  · rw [hmem]
    exact Memory.wf_writeWord hm _ _
  · rw [hpop.slot]

end Sys2Proof.Machine
end

section
/-! PROOFS. The cycle as its phases in order (43:R180), F (43:R181), and the halted block (43:R184): with nothing in
flight every phase before the issue stage finds no turn to give. -/

namespace Sys2Proof.Machine

/-! ## The phases in order -/

theorem andThen_next_right (o : Result) : andThen o .next = o := by
  cases o with
  | next s => exact ite_self _
  | fault e => rfl
  | refused e => rfl

/-- I, F and the cycle count as a loop. -/
theorem fromIssue_eq : fromIssue = forEach (fun phase u => phase u) [issuePhase, finalizePhase, tick] := by
  funext u
  rw [fromIssue, andThen_assoc, forEach_cons]
  refine congrArg (andThen (issuePhase u)) (funext fun v => congrArg (andThen (finalizePhase v)) (funext fun w => ?_))
  exact (andThen_next_right (tick w)).symm

/-- One cycle as a loop over its phases (R180). -/
theorem cycle_eq (s : State) :
    cycle s = forEach (fun phase u => phase u)
      [commitPhase, writebackPhase, addressPhase, dispatchPhase, countPhase, issuePhase, finalizePhase, tick]
      { s with turn := Turn.start } := by
  simp only [cycle, beforeIssue, andThen_assoc, fromIssue_eq]
  rfl

/-- Settles O37: the cycle is the loop over its phases, and a turn is the visit of the record's instruction. -/
theorem phasesRunTheRecords : Obligations.PhasesRunTheRecords := by
  unfold Obligations.PhasesRunTheRecords
  refine ⟨fun s hs hf => ?_, fun s i => ⟨fun hc hi => ?_, fun l hd hi => ?_, fun k hb hi => ?_,
    fun ref hi => visit_eq hi, fun c j hb hd hi => ?_⟩⟩
  · rw [step_of_runnable hs, stepBlock, if_pos hf, cycle_eq]
  · exact (if_neg hc).trans (visit_eq hi)
  · exact (if_pos hd).trans (visit_eq hi)
  · exact (if_pos hb).trans (visit_eq hi)
  · exact (if_pos (by simp [hb, hd])).trans (visit_eq hi)

/-! ## F -/

theorem RsEntry.finalize_eq (e : RsEntry) :
    e.finalize = { e with busy := e.busy && !e.remove, remove := false } := by
  obtain ⟨_, _, _, _, _, _, _, _, _, remove⟩ := e
  cases remove <;> simp [RsEntry.finalize]

/-- Settles O36: F maps every entry of every pool, and nothing else. -/
theorem finalizeFreesMarkedEntries : Obligations.FinalizeFreesMarkedEntries := by
  unfold Obligations.FinalizeFreesMarkedEntries
  refine fun s => ⟨_, rfl, fun e => ?_, rfl, fun p hp => ?_⟩
  · exact (State.entry_mapEntries (f := RsEntry.finalize) rfl s e).trans (RsEntry.finalize_eq _)
  · cases p <;> simp [Part.same] at hp ⊢

/-! ## Nothing in flight -/

/-- A loop that finds nothing to do. -/
theorem forEach_rests {α : Type} {f : α → State → Result} {s : State} {l : List α} (h : ∀ x ∈ l, f x s = .next s) :
    forEach f l s = .next s := by
  induction l with
  | nil => rfl
  | cons x l ih =>
    rw [forEach_cons, h x List.mem_cons_self, andThen_next, ih fun y hy => h y (List.mem_cons_of_mem x hy), ite_self]

/-- `Idle` through the accessors: an index past its array reads as idle. -/
theorem State.idle_iff (s : State) :
    s.Idle ↔ s.rob.count = 0 ∧ (∀ q, (s.entry q).busy = false ∧ (s.entry q).remove = false) ∧
      (∀ c j, (s.lane c j).busy = false ∧ (s.lane c j).done = false) ∧
      (∀ j, (s.bypSlot j).busy = false ∧ (s.bypSlot j).done = false) ∧ s.turn = Turn.start := by
  have hpool (p : Pool) := forall_getD_iff (P := fun e : RsEntry => e.busy = false ∧ e.remove = false)
    (l := s.rs.get p) (d := RsEntry.empty) ⟨rfl, rfl⟩
  have hlane (c : UnitClass) := forall_getD_iff (P := fun l : Lane => l.busy = false ∧ l.done = false)
    (l := s.lanes.get c) (d := Lane.empty) ⟨rfl, rfl⟩
  have hbyp := forall_getD_iff (P := fun b : BypSlot => b.busy = false ∧ b.done = false) (l := s.byp)
    (d := BypSlot.empty) ⟨rfl, rfl⟩
  rw [State.Idle, ← Pool.forall_iff (P := fun p => ∀ e ∈ s.rs.get p, e.busy = false ∧ e.remove = false),
    ← UnitClass.forall_iff (P := fun c => ∀ l ∈ s.lanes.get c, l.busy = false ∧ l.done = false), ← hbyp]
  simp only [← hpool, ← hlane]
  exact ⟨fun ⟨hc, he, h⟩ => ⟨hc, fun q => he q.pool q.idx, h⟩, fun ⟨hc, he, h⟩ => ⟨hc, fun p k => he ⟨p, k⟩, h⟩⟩

/-- An empty ROB means empty pools and free lanes (R184). -/
theorem State.idle_of_empty {s : State} (hs : s.Fit) (hi : s.InFlightOk) (hc : s.rob.count = 0)
    (ht : s.turn = Turn.start) : s.Idle := by
  obtain ⟨-, hlanes, hslots, hentries⟩ := hi
  obtain ⟨hpools, hremove, -⟩ := (State.entriesOk_iff hs).1 hentries
  obtain ⟨hlegal, hbyp⟩ := s.lanesLegal_iff.1 hlanes
  have hlive : s.liveTags = [] := by simp [State.liveTags, State.tagsFrom, hc]
  have hentry (q : RsRef) : (s.entry q).busy = false := by
    by_contra hb
    have hq := (((State.poolsOk_iff hs).1 hpools).1 q (by simpa using hb)).live
    rw [hlive] at hq
    cases hq
  have hslot (l : SlotRef) : (s.slotView l).busy = false := by
    by_contra hb
    have hl := (((State.slotsOk_iff hs).1 hslots).1 l (by simpa using hb)).busy
    cases (hentry _).symm.trans hl
  refine s.idle_iff.2 ⟨hc, fun q => ⟨hentry q, hremove q⟩, fun c j => ?_, fun j => ?_, ht⟩
  · have hb : (s.lane c j).busy = false := hslot (.timed c j)
    refine ⟨hb, ?_⟩
    obtain ⟨-, -, hd⟩ | ⟨hn, -⟩ | ⟨hn, -⟩ := hlegal c j
    · exact hd
    · cases hb.symm.trans hn
    · cases hb.symm.trans hn
  · exact ⟨hslot (.bypass j), (hbyp j).symm.trans (hslot (.bypass j))⟩

theorem State.withTurn_self {s : State} {τ : Turn} (h : s.turn = τ) : s.withTurn τ = s := by
  subst h
  rfl

theorem PerPool.map_eq_self {α : Type} {f : α → α} {x : PerPool α} (h : ∀ p, f (x.get p) = x.get p) : x.map f = x := by
  rw [PerPool.map, PerPool.mk.injEq]
  exact ⟨h .intRs, h .addRs, h .multRs, h .loadB⟩

section idle

variable {s : State} (h : s.Idle)

include h

theorem writebackPhase_of_idle : writebackPhase s = .next s := by
  obtain ⟨-, -, hlane, hbyp, -⟩ := s.idle_iff.1 h
  refine forEach_rests fun l _ => if_neg ?_
  cases l with
  | timed c j => simp [State.slotView, hlane c j]
  | bypass j => simp [State.slotView, hbyp j]

theorem addressPhase_of_idle : addressPhase s = .next s := by
  obtain ⟨-, hentry, -⟩ := s.idle_iff.1 h
  exact forEach_rests fun k _ => if_neg (by simp [hentry ⟨.loadB, k⟩])

theorem dispatchPhase_of_idle : dispatchPhase s = .next s := by
  obtain ⟨-, hentry, -, -, hturn⟩ := s.idle_iff.1 h
  have hstart : s.withTurn { s.turn with memTimedIssued := false } = s := State.withTurn_self (hturn ▸ rfl)
  refine (congrArg (forEach dispatchClass UnitClass.all) hstart).trans (forEach_rests fun c _ => ?_)
  refine forEach_rests fun q hq => ?_
  simp [State.entriesOldestFirst, State.entriesOfTag, hentry] at hq

theorem countPhase_of_idle : countPhase s = .next s := by
  obtain ⟨-, -, hlane, -, hturn⟩ := s.idle_iff.1 h
  obtain ⟨-, -, -, hbyp, -⟩ := h
  have hstart : s.withTurn { s.turn with memDone := 0 } = s := State.withTurn_self (hturn ▸ rfl)
  have hlanes : forEach countClass UnitClass.all s = .next s :=
    forEach_rests fun c _ => forEach_rests fun j _ => if_neg (by simp [hlane c j])
  have hfinish : s.byp.map BypSlot.finish = s.byp :=
    (List.map_congr_left fun b hb => by simp [BypSlot.finish, hbyp b hb]).trans (List.map_id _)
  have hend : finishCompletions s = .next s :=
    (if_neg (by rw [hturn]; decide)).trans (congrArg (fun b => Host.Outcome.next { s with byp := b }) hfinish)
  have hrun : countPhase s = andThen (forEach countClass UnitClass.all s) finishCompletions :=
    congrArg (fun u => andThen (forEach countClass UnitClass.all u) finishCompletions) hstart
  rw [hrun, hlanes, andThen_next, hend, ite_self]

/-- With nothing in flight the step is its issue stage (R180, R331). -/
theorem beforeIssue_of_idle : beforeIssue s = .next s := by
  have hcommit : commitPhase s = .next s := if_pos h.1
  simp only [beforeIssue, hcommit, writebackPhase_of_idle h, addressPhase_of_idle h, dispatchPhase_of_idle h,
    countPhase_of_idle h, andThen_next, ite_self]

/-- With nothing in flight nothing is marked for removal, so F only puts the turn back to rest (R181). -/
theorem finalizePhase_of_idle (p : Phase) : finalizePhase (s.atPhase p) = .next s := by
  obtain ⟨-, hpools, -, -, hturn⟩ := h
  have hmark (q : Pool) : (s.rs.get q).map RsEntry.finalize = s.rs.get q :=
    (List.map_congr_left fun e he =>
      RsEntry.finalize_of_not_remove (hpools q (by cases q <;> decide) e he).2).trans (List.map_id _)
  have hrs : s.rs.map (fun l => l.map RsEntry.finalize) = s.rs := PerPool.map_eq_self hmark
  have hmap : s.mapEntries RsEntry.finalize = s := congrArg (fun x => ({ s with rs := x } : State)) hrs
  have hrest : finalizePhase (s.atPhase p) = .next ((s.mapEntries RsEntry.finalize).withTurn Turn.start) := rfl
  rw [hrest, hmap, State.withTurn_self hturn]

end idle

/-! ## The halted block -/

theorem State.atEop_iff {s : State} : s.atEop = true ↔ ∃ w, s.fetch = some w ∧ decode w s.pc = .ok .eop := by
  unfold State.atEop
  cases s.fetch <;> simp

/-- On an `EOP`, with room, issue stops at once (R107). -/
theorem issuePhase_of_atEop {s : State} (hw : s.cfg.issueWidth ≠ 0) (hroom : s.rob.count ≠ s.cfg.robSize)
    (ht : s.turn = Turn.start) (he : s.atEop = true) :
    issuePhase s = .next (s.atPhase .finalize) := by
  obtain ⟨w, hfetch, hdec⟩ := State.atEop_iff.1 he
  obtain ⟨hcheck, hinstr⟩ := decode_eq_ok_iff.1 hdec
  obtain ⟨n, hn⟩ := Nat.exists_eq_succ_of_ne_zero hw
  have hstart : s.withTurn { s.turn with issued := 0 } = s := State.withTurn_self (ht ▸ rfl)
  have hone : issueOne s = .next (s.atPhase .finalize) :=
    (issueOne_of_check_none hroom hfetch hcheck hinstr).trans (exec_at_issue rfl .eop)
  have hloop : issuePhase s = issueLoop s.cfg.issueWidth s := congrArg (issueLoop s.cfg.issueWidth) hstart
  rw [hloop, hn, issueLoop, hone]
  simp only [andThen_next, State.atPhase_phase, if_true, ite_self]

/-- Settles O43: an empty ROB leaves the phases before the issue stage and F nothing to do, and the `EOP` the issue
stage. -/
theorem haltedStepCountsOnly : Obligations.HaltedStepCountsOnly := by
  unfold Obligations.HaltedStepCountsOnly
  rintro s hs ⟨hf, hc, he⟩ hi ht
  have hfit := State.runnable_iff_fit.1 hs
  have hidle := State.idle_of_empty hfit hi hc ht
  have hstart : s.withTurn Turn.start = s := State.withTurn_self ht
  have hbefore : beforeIssue (s.withTurn Turn.start) = .next s := hstart.symm ▸ beforeIssue_of_idle hidle
  have hwidth : s.cfg.issueWidth ≠ 0 := by
    have hw := hs.1
    simp only [Config.wf, Bool.and_eq_true, decide_eq_true_eq] at hw
    omega
  have hroom : s.rob.count ≠ s.cfg.robSize := hc ▸ (Config.robSize_pos hfit.wf).ne
  change step s = tick s
  rw [step_of_beforeIssue hs hf hbefore hf, issuePhase_of_atEop hwidth hroom ht he]
  simp only [andThen_next, State.atPhase_fault, hf, if_true, finalizePhase_of_idle hidle]

end Sys2Proof.Machine
end

section
/-! PROOFS. The integer results (44:R196 to R211): the turn of X3 in which an instruction's countdown ends, and the word
or the fault it then has. -/

namespace Sys2Proof.Machine

/-! ## A countdown that ends with a word (R196, R200 to R210) -/

/-- `DIV` apart, an instruction with a word in the sequential machine puts that word into its lane. -/
theorem computes_of_aluWord {i : Instr} {e : RsEntry} {s : State} {v : Word} (hd : ∀ rd rs rt, i ≠ .div rd rs rt)
    (hv : aluWord s.cfg i e.op1.value e.op2.value = some v) (c : UnitClass) (j : Nat) :
    computes i c j e s = s.finishLane c j v false := by
  cases i with
  | div rd rs rt => exact absurd rfl (hd rd rs rt)
  | _ => cases hv <;> rfl

theorem exec_finishes_of_aluWord {s : State} {i : Instr} {c : UnitClass} {j : Nat} {v : Word} (h : s.Finishing c j)
    (hd : ∀ rd rs rt, i ≠ .div rd rs rt)
    (hv : aluWord s.cfg i (s.served c j).op1.value (s.served c j).op2.value = some v) :
    exec i s = .next (s.laneDone c j v false) := by
  rw [exec_at_complete h.1, State.countDown_finishing h,
    computes_of_aluWord (s := s.setLane c j { s.lane c j with ttl := 0 }) hd hv, State.finishLane_at_zero h.2.1]

/-- Settles O18: each word is that of the sequential machine. -/
theorem integerResults : Obligations.IntegerResults := by
  unfold Obligations.IntegerResults
  rintro s c j rd rs rt imm a b h rfl rfl
  and_intros <;> exact exec_finishes_of_aluWord h nofun rfl

/-- The low half of a product is congruent to the product of the signed readings (R210). -/
theorem dvd_s32_mul_sub (a b : Word) : (2 ^ 32 : Int) ∣ s32 (a * b) - s32 a * s32 b :=
  Int.dvd_sub_self_of_bmod_eq (BitVec.toInt_mul a b).symm

/-- Settles O19: the word is the product of bit vectors. -/
theorem multiplyKeepsLowHalf : Obligations.MultiplyKeepsLowHalf := by
  unfold Obligations.MultiplyKeepsLowHalf
  rintro s c j rd rs rt a b h rfl rfl
  exact ⟨_, exec_finishes_of_aluWord h nofun rfl, BitVec.toNat_mul .., dvd_s32_mul_sub _ _⟩

/-! ## Division (R211, R310) -/

section finishing

variable {s : State} {c : UnitClass} {j : Nat} (h : s.Finishing c j) {rd rs rt : Reg}

include h

theorem exec_div_finishing :
    exec (.div rd rs rt) s = .next ((s.setLane c j { s.lane c j with ttl := 0 }).finishAlu c j (s.served c j).instr.pc
      (divide s.cfg.divSigned (s.served c j).op1.value (s.served c j).op2.value)) := by
  rw [exec_at_complete h.1, State.countDown_finishing h]
  rfl

theorem exec_div_finishes {q : Word}
    (hq : divide s.cfg.divSigned (s.served c j).op1.value (s.served c j).op2.value = .ok q) :
    exec (.div rd rs rt) s = .next (s.laneDone c j q false) := by
  rw [exec_div_finishing h, hq, State.finishAlu, State.finishLane_at_zero h.2.1]

theorem exec_div_faults {f : FaultCode}
    (hf : divide s.cfg.divSigned (s.served c j).op1.value (s.served c j).op2.value = .error f) :
    exec (.div rd rs rt) s = .next (s.laneFaults c j f (s.served c j).instr.pc 0) := by
  rw [exec_div_finishing h, hf]
  rfl

end finishing

theorem divide_eq_error {sg : Bool} {a b : Word} (h : b = 0 ∨ (sg = true ∧ s32 a = -2 ^ 31 ∧ s32 b = -1)) :
    divide sg a b = .error .divFault := by
  unfold divide
  obtain hb | ⟨rfl, ho⟩ := h
  · exact if_pos hb
  · rw [if_pos rfl, if_pos ho, ite_self]

theorem divide_unsigned {a b : Word} (hb : b ≠ 0) : divide false a b = .ok (a / b) := by
  rw [divide, if_neg hb]
  exact congrArg Except.ok (BitVec.udiv_def ..).symm

theorem divide_signed {a b : Word} (hb : b ≠ 0) (ho : ¬(s32 a = -2 ^ 31 ∧ s32 b = -1)) :
    divide true a b = .ok (a.sdiv b) := by
  rw [divide, if_neg hb, if_pos rfl, if_neg ho, sdiv_eq_ofInt, tdiv_eq_natAbs]
  rfl

/-- Only the quotient `-2^31 / -1` is outside the signed words. -/
theorem s32_sdiv {a b : Word} (ho : ¬(s32 a = -2 ^ 31 ∧ s32 b = -1)) : s32 (a.sdiv b) = (s32 a).tdiv (s32 b) := by
  refine BitVec.toInt_sdiv_of_ne_or_ne a b (not_and_or.1 fun ⟨ha, hb⟩ => ho ?_)
  subst ha hb
  decide

/-- Settles O20: the faults are those of `divide`, and its quotients are those of bit vectors. -/
theorem divideResultOrFault : Obligations.DivideResultOrFault := by
  unfold Obligations.DivideResultOrFault
  rintro s c j rd rs rt a b h rfl rfl
  refine ⟨fun hf => exec_div_faults h (divide_eq_error hf), fun hb hm => ?_, fun hb hm ho => ?_⟩
  · exact ⟨_, exec_div_finishes h (hm ▸ divide_unsigned hb), BitVec.toNat_udiv⟩
  · exact ⟨_, exec_div_finishes h (hm ▸ divide_signed hb ho), s32_sdiv ho⟩

end Sys2Proof.Machine
end

section
/-! PROOFS. Branch resolution (45:R229 to R237): the turn of X3 in which a branch's countdown ends, and its condition on
the tested word. -/

namespace Sys2Proof.Machine

/-- A branch has no destination, so its lane takes the target as its result and the condition as its outcome (R225). -/
theorem computes_of_isBranch {i : Instr} (hi : isBranch i = true) (c : UnitClass) (j : Nat) (e : RsEntry) (s : State) :
    computes i c j e s =
      s.finishLane c j (branchTarget e.instr.pc (immOf i)) (branchTaken i e.op1.value) := by
  obtain ⟨-, hl, -⟩ := isBranch_kind hi
  simp [computes, hl, hi]

theorem exec_finishes_of_isBranch {s : State} {i : Instr} {c : UnitClass} {j : Nat} (h : s.Finishing c j)
    (hi : isBranch i = true) {m : Bool} (hm : branchTaken i (s.served c j).op1.value = m) :
    exec i s = .next (s.laneDone c j (branchTarget (s.served c j).instr.pc (immOf i)) m) := by
  rw [exec_at_complete h.1, State.countDown_finishing h, computes_of_isBranch hi, State.finishLane_at_zero h.2.1, hm]

/-! ## The conditions, by the sign bit and the unsigned reading of the tested word -/

theorem takenEqz_eq (a : Word) : takenEqz a = decide (a.toNat = 0) := by
  rw [takenEqz, beq_eq_decide]
  exact decide_eq_decide.2 BitVec.toNat_inj.symm

theorem takenNez_eq (a : Word) : takenNez a = decide (a.toNat ≠ 0) := by
  rw [decide_not, ← takenEqz_eq]
  rfl

theorem takenLtz_eq (a : Word) : takenLtz a = a.msb := BitVec.msb_eq_toInt.symm

theorem takenLez_eq (a : Word) : takenLez a = (a.msb || decide (a.toNat = 0)) := by
  have hz : s32 a = 0 ↔ a.toNat = 0 := BitVec.toInt_inj (y := 0).trans BitVec.toNat_inj.symm
  rw [← takenLtz_eq, takenLez, takenLtz, ← Bool.decide_or]
  exact decide_eq_decide.2 (le_iff_lt_or_eq.trans (or_congr_right hz))

theorem takenGtz_eq_not (a : Word) : takenGtz a = !takenLez a := by
  rw [takenLez, ← decide_not, takenGtz]
  exact decide_eq_decide.2 not_le.symm

theorem takenGez_eq_not (a : Word) : takenGez a = !takenLtz a := by
  rw [takenLtz, ← decide_not, takenGez]
  exact decide_eq_decide.2 not_lt.symm

theorem takenGtz_eq (a : Word) : takenGtz a = (!a.msb && decide (a.toNat ≠ 0)) := by
  rw [takenGtz_eq_not, takenLez_eq, Bool.not_or, decide_not]

theorem takenGez_eq (a : Word) : takenGez a = !a.msb := by rw [takenGez_eq_not, takenLtz_eq]

/-- Settles O21: every branch puts its target and condition into its lane, and the conditions are those of the tested
word. -/
theorem branchesResolve : Obligations.BranchesResolve := by
  unfold Obligations.BranchesResolve
  rintro s c j rs imm a target h rfl rfl
  exact ⟨exec_finishes_of_isBranch h rfl (takenEqz_eq _), exec_finishes_of_isBranch h rfl (takenNez_eq _),
    exec_finishes_of_isBranch h rfl (takenLtz_eq _), exec_finishes_of_isBranch h rfl (takenGtz_eq _),
    exec_finishes_of_isBranch h rfl (takenLez_eq _), exec_finishes_of_isBranch h rfl (takenGez_eq _),
    exec_finishes_of_isBranch h rfl rfl⟩

end Sys2Proof.Machine
end

section
/-! PROOFS. Binary32 patterns (00:R10, 47:R265): sign and magnitude, what a pattern stands for, and the results that are
a NaN, or come from an infinity or a zero divisor (47:R266, R273). -/

namespace Sys2Proof.Machine

/-! ## A pattern is a sign and a magnitude -/

/-- The magnitude of a pattern: its bits but for the sign. -/
def magOf (w : Word) : ℕ := w.toNat % 2 ^ 31

theorem magOf_lt (w : Word) : magOf w < 2 ^ 31 := Nat.mod_lt _ (by decide)

theorem signOf_eq (w : Word) : signOf w = decide (2 ^ 31 ≤ w.toNat) := BitVec.msb_eq_decide w

theorem toNat_signed32 (neg : Bool) {p : ℕ} (hp : p < 2 ^ 31) :
    (signed32 neg p).toNat = if neg then 2 ^ 31 + p else p := by
  refine Nat.mod_eq_of_lt ?_
  split <;> omega

@[simp] theorem signOf_signed32 (neg : Bool) {p : ℕ} (hp : p < 2 ^ 31) : signOf (signed32 neg p) = neg := by
  rw [signOf_eq, toNat_signed32 neg hp]
  cases neg
  · exact decide_eq_false (by simpa using hp)
  · exact decide_eq_true (Nat.le_add_right ..)

@[simp] theorem magOf_signed32 (neg : Bool) {p : ℕ} (hp : p < 2 ^ 31) : magOf (signed32 neg p) = p := by
  rw [magOf, toNat_signed32 neg hp]
  split <;> omega

@[simp] theorem signed32_magOf (w : Word) : signed32 (signOf w) (magOf w) = w := by
  have hw := w.isLt
  refine BitVec.eq_of_toNat_eq ?_
  rw [toNat_signed32 _ (magOf_lt w), signOf_eq, magOf]
  simp only [decide_eq_true_eq]
  split <;> omega

theorem signed32_getLsbD_zero (neg : Bool) (p : ℕ) : (signed32 neg p).getLsbD 0 = decide (p % 2 = 1) := by
  rw [BitVec.getLsbD, Nat.testBit_zero, signed32, BitVec.toNat_ofNat]
  refine decide_eq_decide.2 ?_
  split <;> omega

theorem signed32_infMag (neg : Bool) : signed32 neg infMag = signedInf neg := by cases neg <;> rfl

theorem signed32_zero (neg : Bool) : signed32 neg 0 = signedZero neg := by cases neg <;> rfl

/-! ## What a pattern stands for (R10, R265) -/

/-- The significand of a magnitude, with the hidden bit of a normal number. -/
def significand (p : ℕ) : ℕ := if p < 2 ^ 23 then p else 2 ^ 23 + p % 2 ^ 23

/-- The last place of a magnitude's significand, counted from the subnormals' `2^-149`. -/
def placeOf (p : ℕ) : ℕ := p / 2 ^ 23 - 1

theorem exponent_toNat (w : Word) : (w.extractLsb' 23 8).toNat = magOf w / 2 ^ 23 := by
  rw [BitVec.extractLsb'_toNat, Nat.shiftRight_eq_div_pow, magOf]
  omega

theorem fraction_toNat (w : Word) : (w.extractLsb' 0 23).toNat = magOf w % 2 ^ 23 := by
  rw [BitVec.extractLsb'_toNat, Nat.shiftRight_zero, magOf]
  omega

theorem floatVal_of_gt {w : Word} (h : infMag < magOf w) : floatVal w = .nan := by
  have := magOf_lt w
  simp only [floatVal, exponent_toNat, fraction_toNat, infMag] at *
  rw [if_pos (by omega), if_neg (by omega)]

theorem floatVal_of_eq {w : Word} (h : magOf w = infMag) : floatVal w = .inf (signOf w) := by
  simp only [floatVal, exponent_toNat, fraction_toNat, h]
  rfl

theorem floatVal_of_lt {w : Word} (h : magOf w < infMag) :
    floatVal w = .fin (signOf w) (significand (magOf w)) (placeOf (magOf w) - 149) := by
  simp only [floatVal, exponent_toNat, fraction_toNat, infMag, significand, placeOf] at *
  rw [if_neg (by omega)]
  split
  · rw [if_pos (by omega), Nat.mod_eq_of_lt (by omega)]
    congr 1
    omega
  · rw [if_neg (by omega)]
    congr 1
    omega

theorem isNan_iff (w : Word) : isNan w = true ↔ infMag < magOf w := by
  have := magOf_lt w
  simp only [isNan, Bool.and_eq_true, beq_iff_eq, bne_iff_ne, ne_eq, ← BitVec.toNat_inj, exponent_toNat,
    fraction_toNat, infMag, BitVec.ofNat_eq_ofNat, BitVec.toNat_ofNat]
  omega

/-- A pattern is the one of its sign and a magnitude exactly where its magnitude is that one. -/
theorem eq_signed32_iff (w : Word) {p : ℕ} (hp : p < 2 ^ 31) : w = signed32 (signOf w) p ↔ magOf w = p := by
  refine ⟨fun h => ?_, fun h => ?_⟩
  · rw [h, magOf_signed32 _ hp]
  · rw [← h, signed32_magOf]

theorem isInf_iff (w : Word) : isInf w = true ↔ magOf w = infMag := by
  rw [isInf, beq_iff_eq, ← signed32_infMag]
  exact eq_signed32_iff w (by decide)

theorem isZero_iff (w : Word) : isZero w = true ↔ magOf w = 0 := by
  rw [isZero, beq_iff_eq, ← signed32_zero]
  exact eq_signed32_iff w (by decide)

theorem significand_eq_zero {p : ℕ} : significand p = 0 ↔ p = 0 := by
  unfold significand
  split <;> omega

theorem floatVal_cases (w : Word) :
    floatVal w = .nan ∨ floatVal w = .inf (signOf w) ∨ ∃ m e, floatVal w = .fin (signOf w) m e := by
  obtain h | h | h := lt_trichotomy (magOf w) infMag
  · exact .inr (.inr ⟨_, _, floatVal_of_lt h⟩)
  · exact .inr (.inl (floatVal_of_eq h))
  · exact .inl (floatVal_of_gt h)

theorem floatVal_eq_nan_iff {w : Word} : floatVal w = .nan ↔ isNan w = true := by
  rw [isNan_iff]
  obtain h | h | h := lt_trichotomy (magOf w) infMag
  · simp [floatVal_of_lt h, h.not_gt]
  · simp [floatVal_of_eq h, h]
  · simp [floatVal_of_gt h, h]

theorem floatVal_eq_inf_iff {w : Word} {neg : Bool} : floatVal w = .inf neg ↔ isInf w = true ∧ signOf w = neg := by
  rw [isInf_iff]
  obtain h | h | h := lt_trichotomy (magOf w) infMag
  · simp [floatVal_of_lt h, h.ne]
  · simp [floatVal_of_eq h, h]
  · simp [floatVal_of_gt h, h.ne']

theorem floatVal_eq_zero_iff {w : Word} : (∃ neg e, floatVal w = .fin neg 0 e) ↔ isZero w = true := by
  have hpos : 0 < infMag := by decide
  rw [isZero_iff]
  obtain h | h | h := lt_trichotomy (magOf w) infMag
  · simp [floatVal_of_lt h, significand_eq_zero]
  · simp [floatVal_of_eq h, h, hpos.ne']
  · simp [floatVal_of_gt h, (hpos.trans h).ne']

theorem floatVal_of_isZero {w : Word} (h : isZero w = true) : ∃ e, floatVal w = .fin (signOf w) 0 e := by
  rw [isZero_iff] at h
  exact ⟨_, (floatVal_of_lt (h ▸ by decide)).trans (by rw [significand_eq_zero.2 h])⟩

/-! ## Where the result is a NaN (R266) -/

theorem floatAdd_eq_none_iff (u v : FloatVal) :
    floatAdd u v = none ↔ u = .nan ∨ v = .nan ∨ ∃ neg, u = .inf neg ∧ v = .inf (!neg) := by
  cases u <;> cases v <;> simp [floatAdd, Bool.eq_not_iff, eq_comm]

theorem floatMul_eq_none_iff (u v : FloatVal) :
    floatMul u v = none ↔ u = .nan ∨ v = .nan ∨ ((∃ neg e, u = .fin neg 0 e) ∧ ∃ neg, v = .inf neg) ∨
      (∃ neg, u = .inf neg) ∧ ∃ neg e, v = .fin neg 0 e := by
  cases u <;> cases v <;> simp [floatMul]

theorem floatDiv_eq_none_iff (u v : FloatVal) :
    floatDiv u v = none ↔ u = .nan ∨ v = .nan ∨ ((∃ neg e, u = .fin neg 0 e) ∧ ∃ neg e, v = .fin neg 0 e) ∨
      (∃ neg, u = .inf neg) ∧ ∃ neg, v = .inf neg := by
  cases u <;> cases v <;> simp [floatDiv, ite_eq_iff, and_comm]

theorem FloatVal.neg_eq_nan_iff {v : FloatVal} : v.neg = .nan ↔ v = .nan := by cases v <;> simp [FloatVal.neg]

theorem FloatVal.neg_eq_inf_iff {v : FloatVal} {neg : Bool} : v.neg = .inf neg ↔ v = .inf (!neg) := by
  cases v <;> simp [FloatVal.neg, Bool.not_eq_eq_eq_not]

theorem exists_floatVal_eq_inf_iff {w : Word} : (∃ neg, floatVal w = .inf neg) ↔ isInf w = true := by
  simp [floatVal_eq_inf_iff]

/-- The model has no result exactly where IEEE 754 gives a NaN, opcode by opcode. -/
theorem floatResult_eq_none_iff (op : FloatOp) (a b : Word) : floatResult op a b = none ↔ givesNan op a b = true := by
  cases op with
  | adds =>
    have hs : signOf b = !signOf a ↔ signOf a ≠ signOf b := by rw [Bool.eq_not_iff, ne_comm]
    simp [floatResult, givesNan, floatAdd_eq_none_iff, floatVal_eq_nan_iff, floatVal_eq_inf_iff, hs, or_assoc,
      and_assoc]
  | subs =>
    simp [floatResult, givesNan, floatAdd_eq_none_iff, FloatVal.neg_eq_nan_iff, FloatVal.neg_eq_inf_iff,
      floatVal_eq_nan_iff, floatVal_eq_inf_iff, eq_comm (a := signOf b), or_assoc, and_assoc]
  | mults =>
    simp only [floatResult, floatMul_eq_none_iff, floatVal_eq_nan_iff, exists_floatVal_eq_inf_iff, floatVal_eq_zero_iff,
      givesNan, Bool.or_eq_true, Bool.and_eq_true, or_assoc]
  | divs =>
    simp only [floatResult, floatDiv_eq_none_iff, floatVal_eq_nan_iff, exists_floatVal_eq_inf_iff, floatVal_eq_zero_iff,
      givesNan, Bool.or_eq_true, Bool.and_eq_true, or_assoc]

theorem floatCompute_of_givesNan {op : FloatOp} {a b : Word} (h : givesNan op a b = true) (nan : NanRule) :
    floatCompute nan op a b = nan.apply op a b := by
  rw [floatCompute, (floatResult_eq_none_iff op a b).2 h, Option.getD_none]

theorem floatCompute_of_some {op : FloatOp} {a b w : Word} (h : floatResult op a b = some w) (nan : NanRule) :
    floatCompute nan op a b = w := by
  rw [floatCompute, h, Option.getD_some]

/-- Settles O25: the model has no result exactly where IEEE 754 gives a NaN, and the lane then takes the parameter. -/
theorem floatNanIsTheParameter : Obligations.FloatNanIsTheParameter := by
  unfold Obligations.FloatNanIsTheParameter
  refine ⟨?_, fun _ _ _ => rfl⟩
  rintro s c j fd fs ft a b h rfl rfl
  and_intros <;>
    exact fun hn => exec_finishes_of_aluWord h nofun (congrArg some (floatCompute_of_givesNan hn s.cfg.fpNan))

/-! ## Results with an infinity, or over a zero (R265, R273) -/

theorem floatVal_of_isInf {w : Word} (h : isInf w = true) : floatVal w = .inf (signOf w) :=
  floatVal_eq_inf_iff.2 ⟨h, rfl⟩

theorem signedInf_of_isInf {w : Word} (h : isInf w = true) : signedInf (signOf w) = w := (beq_iff_eq.1 h).symm

/-- A result that can only be a NaN or `w` is `w` where IEEE 754 gives no NaN. -/
theorem floatCompute_of_none_or_some {op : FloatOp} {a b w : Word}
    (h : floatResult op a b = none ∨ floatResult op a b = some w) (hn : givesNan op a b = false) (nan : NanRule) :
    floatCompute nan op a b = w :=
  floatCompute_of_some (h.resolve_left ((floatResult_eq_none_iff op a b).not.2 (Bool.eq_false_iff.1 hn))) nan

theorem floatAdd_inf_left (neg : Bool) (v : FloatVal) :
    floatAdd (.inf neg) v = none ∨ floatAdd (.inf neg) v = some (signedInf neg) := by
  rw [← signed32_infMag]
  cases v with
  | nan => exact .inl rfl
  | inf neg' => exact (ite_eq_or_eq ..).symm
  | fin => exact .inr rfl

theorem floatAdd_inf_right (u : FloatVal) (neg : Bool) :
    floatAdd u (.inf neg) = none ∨ floatAdd u (.inf neg) = some (signedInf neg) := by
  rw [← signed32_infMag]
  cases u with
  | nan => exact .inl rfl
  | inf neg' =>
    rw [floatAdd]
    split
    case isTrue h => exact .inr (h ▸ rfl)
    case isFalse => exact .inl rfl
  | fin => exact .inr rfl

theorem floatMul_inf_left (neg : Bool) (b : Word) :
    floatMul (.inf neg) (floatVal b) = none ∨
      floatMul (.inf neg) (floatVal b) = some (signedInf (neg != signOf b)) := by
  rw [← signed32_infMag]
  obtain h | h | ⟨m, e, h⟩ := floatVal_cases b <;> rw [h]
  · exact .inl rfl
  · exact .inr rfl
  · exact ite_eq_or_eq ..

theorem floatMul_comm (u v : FloatVal) : floatMul u v = floatMul v u := by
  cases u <;> cases v <;> simp [floatMul, bne_comm, Nat.mul_comm, Int.add_comm]

theorem floatMul_inf_right (a : Word) (neg : Bool) :
    floatMul (floatVal a) (.inf neg) = none ∨
      floatMul (floatVal a) (.inf neg) = some (signedInf (signOf a != neg)) := by
  rw [floatMul_comm, bne_comm]
  exact floatMul_inf_left neg a

theorem floatDiv_inf_left (neg : Bool) (b : Word) :
    floatDiv (.inf neg) (floatVal b) = none ∨
      floatDiv (.inf neg) (floatVal b) = some (signedInf (neg != signOf b)) := by
  rw [← signed32_infMag]
  obtain h | h | ⟨m, e, h⟩ := floatVal_cases b <;> rw [h]
  · exact .inl rfl
  · exact .inl rfl
  · exact .inr rfl

theorem floatDiv_inf_right (a : Word) (neg : Bool) :
    floatDiv (floatVal a) (.inf neg) = none ∨
      floatDiv (floatVal a) (.inf neg) = some (signedZero (signOf a != neg)) := by
  rw [← signed32_zero]
  obtain h | h | ⟨m, e, h⟩ := floatVal_cases a <;> rw [h]
  · exact .inl rfl
  · exact .inl rfl
  · exact .inr rfl

theorem floatDiv_zero_right (a : Word) (neg : Bool) (e : Int) :
    floatDiv (floatVal a) (.fin neg 0 e) = none ∨
      floatDiv (floatVal a) (.fin neg 0 e) = some (signedInf (signOf a != neg)) := by
  rw [← signed32_infMag]
  obtain h | h | ⟨m, e', h⟩ := floatVal_cases a <;> rw [h]
  · exact .inl rfl
  · exact .inr rfl
  · exact ite_eq_or_eq ..

theorem floatAdd_of_isInf_left {a : Word} (h : isInf a = true) (v : FloatVal) :
    floatAdd (floatVal a) v = none ∨ floatAdd (floatVal a) v = some a := by
  simpa only [floatVal_of_isInf h, signedInf_of_isInf h] using floatAdd_inf_left (signOf a) v

theorem floatAdd_of_isInf_right (u : FloatVal) {b : Word} (h : isInf b = true) :
    floatAdd u (floatVal b) = none ∨ floatAdd u (floatVal b) = some b := by
  simpa only [floatVal_of_isInf h, signedInf_of_isInf h] using floatAdd_inf_right u (signOf b)

/-- Settles O26: each result can only be a NaN or the word stated, and it is no NaN. -/
theorem floatInfinities : Obligations.FloatInfinities := by
  unfold Obligations.FloatInfinities
  rintro s c j fd fs ft a b h rfl rfl
  refine ⟨fun hn => ⟨fun ha => ?_, fun hb => ?_⟩, fun hn => ⟨fun ha => ?_, fun hb => ?_⟩, fun hn hi => ?_,
    fun hn => ⟨fun hi => ?_, fun hb => ?_⟩⟩ <;>
    refine exec_finishes_of_aluWord h nofun (congrArg some (floatCompute_of_none_or_some ?_ hn s.cfg.fpNan)) <;>
    rw [floatResult]
  · exact floatAdd_of_isInf_left ha _
  · exact floatAdd_of_isInf_right _ hb
  · exact floatAdd_of_isInf_left ha _
  · exact floatVal_of_isInf hb ▸ floatAdd_inf_right ..
  · obtain ha | hb := hi
    · exact floatVal_of_isInf ha ▸ floatMul_inf_left ..
    · exact floatVal_of_isInf hb ▸ floatMul_inf_right ..
  · obtain ha | hb := hi
    · exact floatVal_of_isInf ha ▸ floatDiv_inf_left ..
    · obtain ⟨e, he⟩ := floatVal_of_isZero hb
      exact he ▸ floatDiv_zero_right ..
  · exact floatVal_of_isInf hb ▸ floatDiv_inf_right ..

end Sys2Proof.Machine
end

section
/-! PROOFS. Rounding to a natural number, and the place of the leading power of two (47:R265). -/

namespace Sys2Proof.Machine

/-- `n` is a natural number nearest to `f`, the even one of two. -/
def NearestEven (f : ℚ) (n : ℕ) : Prop := |n - f| ≤ 1 / 2 ∧ (|n - f| = 1 / 2 → n % 2 = 0)

theorem nearestEven_floor {q : ℕ} {t : ℚ} (h0 : 0 ≤ t) (h : t ≤ 1 / 2) (heven : t = 1 / 2 → q % 2 = 0) :
    NearestEven (q + t) q := by
  rw [NearestEven, sub_add_cancel_left, abs_neg, abs_of_nonneg h0]
  exact ⟨h, heven⟩

theorem nearestEven_ceil {q : ℕ} {t : ℚ} (h : 1 / 2 ≤ t) (h1 : t ≤ 1) (heven : t = 1 / 2 → (q + 1) % 2 = 0) :
    NearestEven (q + t) (q + 1) := by
  rw [NearestEven, Nat.cast_succ, add_sub_add_left_eq_sub, abs_of_nonneg (sub_nonneg.2 h1)]
  exact ⟨by linarith, fun htie => heven (by linarith)⟩

/-- The remainder of the division decides on which side of the half the quotient lies. -/
theorem roundNat_nearestEven (num : ℕ) {den : ℕ} (hd : 0 < den) : NearestEven (num / den) (roundNat num den) := by
  have hd' : (0 : ℚ) < den := by exact_mod_cast hd
  have hdiv : (num : ℚ) / den = (num / den : ℕ) + ((num % den : ℕ) : ℚ) / den := by
    rw [div_eq_iff hd'.ne', add_mul, div_mul_cancel₀ _ hd'.ne']
    exact_mod_cast (Nat.div_add_mod' num den).symm
  have hlt : ((num % den : ℕ) : ℚ) / den ≤ 1 := (div_le_one hd').2 (by exact_mod_cast (Nat.mod_lt _ hd).le)
  have hle : ((num % den : ℕ) : ℚ) / den ≤ 1 / 2 ↔ 2 * (num % den) ≤ den := by
    rw [div_le_div_iff₀ hd' two_pos, mul_comm 2, one_mul]
    exact_mod_cast Iff.rfl
  have hge : 1 / 2 ≤ ((num % den : ℕ) : ℚ) / den ↔ den ≤ 2 * (num % den) := by
    rw [div_le_div_iff₀ two_pos hd', mul_comm 2, one_mul]
    exact_mod_cast Iff.rfl
  rw [hdiv, roundNat]
  split
  case isTrue h =>
    refine nearestEven_ceil (hge.2 (by omega)) hlt fun htie => ?_
    have := hle.1 htie.le
    omega
  case isFalse h =>
    refine nearestEven_floor (by positivity) (hle.2 (by omega)) fun htie => ?_
    have := hge.1 htie.ge
    omega

theorem one_le_dist_add_dist {f : ℚ} {n m : ℕ} (hm : m ≠ n) : 1 ≤ |(m : ℚ) - f| + |(n : ℚ) - f| := by
  have hdist : (1 : ℚ) ≤ |(m : ℚ) - n| := by
    exact_mod_cast Int.one_le_abs (sub_ne_zero.2 (Nat.cast_injective.ne hm : (m : ℤ) ≠ n))
  exact hdist.trans (abs_sub_comm (n : ℚ) f ▸ abs_sub_le ..)

theorem NearestEven.dist_le {f : ℚ} {n : ℕ} (h : NearestEven f n) (m : ℕ) : |(n : ℚ) - f| ≤ |(m : ℚ) - f| := by
  obtain rfl | hm := eq_or_ne m n
  · rfl
  · linarith [h.1, one_le_dist_add_dist (f := f) hm]

theorem NearestEven.even_of_tie {f : ℚ} {n m : ℕ} (h : NearestEven f n) (hm : m ≠ n)
    (he : |(n : ℚ) - f| = |(m : ℚ) - f|) : n % 2 = 0 :=
  h.2 (by linarith [h.1, one_le_dist_add_dist (f := f) hm])

theorem NearestEven.le_of_le {f : ℚ} {n m : ℕ} (h : NearestEven f n) (hf : f ≤ m) : n ≤ m := by
  have := abs_le.1 h.1
  have : (n : ℚ) < m + 1 := by linarith
  exact Nat.lt_succ_iff.1 (by exact_mod_cast this)

theorem NearestEven.ge_of_ge {f : ℚ} {n m : ℕ} (h : NearestEven f n) (hf : m ≤ f) : m ≤ n := by
  have := abs_le.1 h.1
  have : (m : ℚ) < n + 1 := by linarith
  exact Nat.lt_succ_iff.1 (by exact_mod_cast this)

/-- Halfway below an even bound already rounds up to it. -/
theorem NearestEven.ge_iff_of_even {f : ℚ} {n m : ℕ} (h : NearestEven f n) (hm : m % 2 = 0) (hn : n ≤ m) :
    m ≤ n ↔ (m : ℚ) - 1 / 2 ≤ f := by
  obtain ⟨hlo, hhi⟩ := abs_le.1 h.1
  refine ⟨fun hmn => ?_, fun hf => ?_⟩
  · obtain rfl := le_antisymm hn hmn
    linarith
  · by_contra hmn
    have hsucc : (n : ℚ) + 1 ≤ m := by exact_mod_cast not_le.1 hmn
    have hm' : n + 1 = m := by exact_mod_cast (by linarith : (n : ℚ) + 1 = m)
    have htie : |(n : ℚ) - f| = 1 / 2 := by
      rw [abs_of_nonpos] <;> linarith
    have := h.2 htie
    omega

theorem two_zpow_cases (k : ℤ) :
    (0 ≤ k ∧ (2 : ℚ) ^ k = (2 : ℚ) ^ k.toNat) ∨ (¬0 ≤ k ∧ (2 : ℚ) ^ k = 1 / (2 : ℚ) ^ (-k).toNat) := by
  by_cases hk : 0 ≤ k
  · refine .inl ⟨hk, ?_⟩
    rw [← zpow_natCast, Int.toNat_of_nonneg hk]
  · refine .inr ⟨hk, ?_⟩
    rw [← zpow_natCast, Int.toNat_of_nonneg (by omega), zpow_neg, one_div, inv_inv]

theorem roundScaled_nearestEven (num : ℕ) {den : ℕ} (hd : 0 < den) (k : ℤ) :
    NearestEven (num / den * 2 ^ k) (roundScaled num den k) := by
  rw [roundScaled]
  obtain ⟨hk, h⟩ | ⟨hk, h⟩ := two_zpow_cases k
  · rw [if_pos hk, h, div_mul_eq_mul_div]
    exact_mod_cast roundNat_nearestEven (num * 2 ^ k.toNat) hd
  · rw [if_neg hk, h, div_mul_div_comm, mul_one]
    exact_mod_cast roundNat_nearestEven num (den := den * 2 ^ (-k).toNat) (by positivity)

theorem two_zpow_le_div_iff (num : ℕ) {den : ℕ} (hd : 0 < den) (l : ℤ) :
    (if 0 ≤ l then den * 2 ^ l.toNat ≤ num else den ≤ num * 2 ^ (-l).toNat) ↔ (2 : ℚ) ^ l ≤ num / den := by
  have hd' : (0 : ℚ) < den := by exact_mod_cast hd
  obtain ⟨hk, h⟩ | ⟨hk, h⟩ := two_zpow_cases l
  · rw [if_pos hk, h, le_div_iff₀ hd', mul_comm]
    exact_mod_cast Iff.rfl
  · rw [if_neg hk, h, div_le_div_iff₀ (by positivity) hd', one_mul]
    exact_mod_cast Iff.rfl

/-- The difference of the two logarithms is the leading place, or one above it. -/
theorem div_bounds_of_log2 {num den : ℕ} (hn : 0 < num) (hd : 0 < den) :
    (2 : ℚ) ^ ((num.log2 : ℤ) - den.log2 - 1) ≤ num / den ∧
      (num / den : ℚ) < 2 ^ ((num.log2 : ℤ) - den.log2 + 1) := by
  have hd' : (0 : ℚ) < den := by exact_mod_cast hd
  have n0 : (2 : ℚ) ^ (num.log2 : ℤ) ≤ num := by exact_mod_cast Nat.log2_self_le hn.ne'
  have n1 : (num : ℚ) < 2 ^ ((num.log2 : ℤ) + 1) := by exact_mod_cast Nat.lt_log2_self
  have d0 : (2 : ℚ) ^ (den.log2 : ℤ) ≤ den := by exact_mod_cast Nat.log2_self_le hd.ne'
  have d1 : (den : ℚ) < 2 ^ ((den.log2 : ℤ) + 1) := by exact_mod_cast Nat.lt_log2_self
  rw [sub_sub, zpow_sub₀ two_ne_zero, sub_add_eq_add_sub, zpow_sub₀ two_ne_zero]
  exact ⟨div_le_div₀ (Nat.cast_nonneg _) n0 hd' d1.le, div_lt_div₀ n1 d0 (by positivity) (by positivity)⟩

/-- `floorLog2` is the place of the leading power of two. -/
theorem floorLog2_bounds {num den : ℕ} (hn : 0 < num) (hd : 0 < den) :
    (2 : ℚ) ^ floorLog2 num den ≤ num / den ∧ (num / den : ℚ) < 2 ^ (floorLog2 num den + 1) := by
  obtain ⟨hlo, hhi⟩ := div_bounds_of_log2 hn hd
  have htest := two_zpow_le_div_iff num hd ((num.log2 : ℤ) - den.log2)
  rw [floorLog2]
  by_cases h : (2 : ℚ) ^ ((num.log2 : ℤ) - den.log2) ≤ num / den
  · rw [if_pos (htest.2 h)]
    exact ⟨h, hhi⟩
  · rw [if_neg (htest.not.2 h), sub_add_cancel]
    exact ⟨hlo, not_le.1 h⟩

end Sys2Proof.Machine
end

section
/-! PROOFS. The float results on finite operands (47:R265, R270 to R273): no pattern is nearer to the exact result than
the one the model rounds to. -/

namespace Sys2Proof.Machine

/-! ## Magnitudes in units of the smallest subnormal -/

/-- What a magnitude stands for, in units of `2^-149`. -/
def unitsOf (p : ℕ) : ℕ := significand p * 2 ^ placeOf p

/-- The number of a sign and a magnitude `r * 2^e`. -/
def signedScaled (neg : Bool) (r : ℚ) (e : ℤ) : ℚ := (if neg then -1 else 1) * r * 2 ^ e

theorem abs_signedScaled_sub_same (neg : Bool) (r t : ℚ) (e : ℤ) :
    |signedScaled neg r e - signedScaled neg t e| = |r - t| * 2 ^ e := by
  have hpos : (0 : ℚ) < 2 ^ e := by positivity
  rw [signedScaled, signedScaled, ← sub_mul, ← mul_sub, abs_mul, abs_mul, abs_of_pos hpos]
  cases neg <;> simp

theorem abs_signedScaled_sub_not {r t : ℚ} (hr : 0 ≤ r) (ht : 0 ≤ t) (neg : Bool) (e : ℤ) :
    |signedScaled (!neg) r e - signedScaled neg t e| = (r + t) * 2 ^ e := by
  have hflip : signedScaled (!neg) r e = signedScaled neg (-r) e := by cases neg <;> simp [signedScaled]
  rw [hflip, abs_signedScaled_sub_same, neg_sub_left, abs_neg, abs_of_nonneg (add_nonneg ht hr), add_comm]

theorem abs_signedScaled {r : ℚ} (hr : 0 ≤ r) (neg : Bool) (e : ℤ) : |signedScaled neg r e| = r * 2 ^ e := by
  simpa [signedScaled, abs_of_nonneg hr] using abs_signedScaled_sub_same neg r 0 e

theorem signedScaled_neg_iff {r : ℚ} (hr : 0 < r) (neg : Bool) (e : ℤ) : signedScaled neg r e < 0 ↔ neg = true := by
  have hpos : (0 : ℚ) < r * 2 ^ e := by positivity
  rw [signedScaled, mul_assoc]
  cases neg
  · simpa using hpos.le
  · simpa using hpos

theorem signedScaled_eq_zero_iff {neg : Bool} {r : ℚ} {e : ℤ} : signedScaled neg r e = 0 ↔ r = 0 := by
  cases neg <;> simp [signedScaled, zpow_ne_zero]

/-- Turning the sign of a candidate takes it no nearer. -/
theorem dist_le_abs_signedScaled_sub {r t : ℚ} (hr : 0 ≤ r) (ht : 0 ≤ t) (neg neg' : Bool) (e : ℤ) :
    |r - t| * 2 ^ e ≤ |signedScaled neg' r e - signedScaled neg t e| := by
  obtain rfl | hne := eq_or_ne neg' neg
  · exact (abs_signedScaled_sub_same ..).ge
  · rw [Bool.eq_not_of_ne hne, abs_signedScaled_sub_not hr ht]
    gcongr
    exact abs_sub_le_of_nonneg_of_le hr (by linarith) ht (by linarith)

theorem finiteValue_eq_some_iff {w : Word} {x : ℚ} :
    finiteValue w = some x ↔ magOf w < infMag ∧ signedScaled (signOf w) (unitsOf (magOf w)) (-149) = x := by
  obtain h | h | h := lt_trichotomy (magOf w) infMag
  · have hscale : (significand (magOf w) : ℚ) * 2 ^ ((placeOf (magOf w) : ℤ) - 149) =
        (unitsOf (magOf w) : ℚ) * 2 ^ (-149 : ℤ) := by
      rw [unitsOf, sub_eq_add_neg, zpow_add₀ two_ne_zero, zpow_natCast, ← mul_assoc]
      push_cast
      rfl
    simp only [finiteValue, floatVal_of_lt h, h, true_and, Option.some_inj, signedScaled, mul_assoc, hscale]
  · simp [finiteValue, floatVal_of_eq h, h]
  · simp [finiteValue, floatVal_of_gt h, h.not_gt]

/-- A significand `n` at the place `k` is the magnitude `k * 2^23 + n`, a carry into the next exponent included. -/
theorem unitsOf_pattern {k n : ℕ} (hn : n ≤ 2 ^ 24) (hk : k = 0 ∨ 2 ^ 23 ≤ n) :
    unitsOf (k * 2 ^ 23 + n) = n * 2 ^ k := by
  obtain h | h | rfl : n < 2 ^ 23 ∨ (2 ^ 23 ≤ n ∧ n < 2 ^ 24) ∨ n = 2 ^ 24 := by omega
  · obtain rfl : k = 0 := by omega
    rw [unitsOf, significand, placeOf, if_pos (by omega), show (0 * 2 ^ 23 + n) / 2 ^ 23 - 1 = 0 by omega,
      zero_mul, zero_add]
  · rw [unitsOf, significand, placeOf, if_neg (by omega), show (k * 2 ^ 23 + n) / 2 ^ 23 - 1 = k by omega,
      show 2 ^ 23 + (k * 2 ^ 23 + n) % 2 ^ 23 = n by omega]
  · rw [unitsOf, significand, placeOf, if_neg (by omega), show (k * 2 ^ 23 + 2 ^ 24) / 2 ^ 23 - 1 = k + 1 by omega,
      show 2 ^ 23 + (k * 2 ^ 23 + 2 ^ 24) % 2 ^ 23 = 2 ^ 23 by omega, pow_succ 2 k, ← mul_assoc, mul_right_comm]
    rfl

theorem significand_lt (p : ℕ) : significand p < 2 ^ 24 := by
  unfold significand
  split <;> omega

/-- Every magnitude is on the grid of the place `k`, or below the least full significand at `k`. -/
theorem unitsOf_on_grid (p k : ℕ) : (∃ m, unitsOf p = m * 2 ^ k) ∨ (k ≠ 0 ∧ unitsOf p < 2 ^ 23 * 2 ^ k) := by
  obtain h | h := le_or_gt k (placeOf p)
  · refine .inl ⟨significand p * 2 ^ (placeOf p - k), ?_⟩
    rw [unitsOf, mul_assoc, ← pow_add, Nat.sub_add_cancel h]
  · refine .inr ⟨by omega, ?_⟩
    calc unitsOf p < 2 ^ 24 * 2 ^ placeOf p := Nat.mul_lt_mul_of_pos_right (significand_lt p) (by positivity)
      _ = 2 ^ 23 * 2 ^ (placeOf p + 1) := by ring
      _ ≤ 2 ^ 23 * 2 ^ k := by gcongr <;> omega

/-! ## The one rounding (R265) -/

theorem overflowBound_eq : overflowBound = (2 ^ 24 - 1 / 2) * 2 ^ 253 * 2 ^ (-149 : ℤ) := by norm_num [overflowBound]

/-- `n` rounds `f` at the place `k`: `f` fits the significand there, and fills it but at the subnormals' place. -/
structure RoundsAt (k : ℕ) (f : ℚ) (n : ℕ) : Prop where
  nearest : NearestEven f n
  nonneg : 0 ≤ f
  lt : f < 2 ^ 24
  full : k = 0 ∨ 2 ^ 23 ≤ f

section

variable {k n : ℕ} {f : ℚ} (h : RoundsAt k f n)

include h

theorem RoundsAt.le : n ≤ 2 ^ 24 := h.nearest.le_of_le (by exact_mod_cast h.lt.le)

theorem RoundsAt.place : k = 0 ∨ 2 ^ 23 ≤ n := h.full.imp_right fun hf => h.nearest.ge_of_ge (by exact_mod_cast hf)

theorem RoundsAt.unitsOf_eq : unitsOf (k * 2 ^ 23 + n) = n * 2 ^ k := unitsOf_pattern h.le h.place

/-- No magnitude is nearer than the rounded one, and one as near is at the same half: the magnitudes at the place `k`
and above are on its grid, where `n` is a nearest point, and those below it lie farther off than `2^23` there. -/
theorem RoundsAt.nearest_units (p : ℕ) : |(n * 2 ^ k : ℚ) - f * 2 ^ k| ≤ |(unitsOf p : ℚ) - f * 2 ^ k| ∧
    (unitsOf p ≠ n * 2 ^ k → |(n * 2 ^ k : ℚ) - f * 2 ^ k| = |(unitsOf p : ℚ) - f * 2 ^ k| → n % 2 = 0) := by
  have hpos : (0 : ℚ) < 2 ^ k := by positivity
  have habs (t : ℚ) : |t * 2 ^ k - f * 2 ^ k| = |t - f| * 2 ^ k := by rw [← sub_mul, abs_mul, abs_of_pos hpos]
  obtain ⟨m, hm⟩ | ⟨hk, hlt⟩ := unitsOf_on_grid p k
  · rw [hm, Nat.cast_mul, Nat.cast_pow, Nat.cast_ofNat, habs, habs]
    refine ⟨mul_le_mul_of_nonneg_right (h.nearest.dist_le m) hpos.le, fun hne he => ?_⟩
    exact h.nearest.even_of_tie (fun hmn => hne (hmn ▸ rfl)) (mul_right_cancel₀ hpos.ne' he)
  · have hf : (2 ^ 23 : ℚ) ≤ f := h.full.resolve_left hk
    have hn : |(n : ℚ) - f| ≤ f - 2 ^ 23 := by
      rw [← abs_of_nonneg (sub_nonneg.2 hf), abs_sub_comm f]
      exact_mod_cast h.nearest.dist_le (2 ^ 23)
    have hlt' : (unitsOf p : ℚ) < 2 ^ 23 * 2 ^ k := by exact_mod_cast hlt
    have hstrict : |(n * 2 ^ k : ℚ) - f * 2 ^ k| < |(unitsOf p : ℚ) - f * 2 ^ k| := by
      calc |(n * 2 ^ k : ℚ) - f * 2 ^ k| = |(n : ℚ) - f| * 2 ^ k := habs n
        _ ≤ (f - 2 ^ 23) * 2 ^ k := mul_le_mul_of_nonneg_right hn hpos.le
        _ < f * 2 ^ k - unitsOf p := by rw [sub_mul]; linarith
        _ ≤ _ := by rw [abs_sub_comm]; exact le_abs_self _
    exact ⟨hstrict.le, fun _ he => absurd he hstrict.ne⟩

theorem RoundsAt.overflow_iff : infMag ≤ k * 2 ^ 23 + n ↔ (2 ^ 24 - 1 / 2 : ℚ) * 2 ^ 253 ≤ f * 2 ^ k := by
  have hn := h.le
  have hplace := h.place
  obtain hk | rfl | hk := lt_trichotomy k 253
  · refine iff_of_false (by rw [infMag]; omega) (not_le.2 ?_)
    calc f * 2 ^ k ≤ 2 ^ 24 * 2 ^ 252 := mul_le_mul h.lt.le (pow_le_pow_right₀ one_le_two (by omega))
          (by positivity) (by positivity)
      _ < (2 ^ 24 - 1 / 2) * 2 ^ 253 := by norm_num
  · rw [mul_le_mul_iff_of_pos_right (by positivity), infMag]
    have htop := h.nearest.ge_iff_of_even (m := 2 ^ 24) rfl hn
    rw [Nat.cast_pow, Nat.cast_ofNat] at htop
    rw [← htop]
    omega
  · refine iff_of_true (by rw [infMag]; omega) ?_
    calc (2 ^ 24 - 1 / 2 : ℚ) * 2 ^ 253 ≤ 2 ^ 23 * 2 ^ 254 := by norm_num
      _ ≤ f * 2 ^ k := mul_le_mul (h.full.resolve_left (by omega)) (pow_le_pow_right₀ one_le_two (by omega))
          (by positivity) h.nonneg

/-- A pattern as near as the rounded magnitude, of either sign, is the rounded number or leaves the last bit 0. -/
theorem RoundsAt.even_of_tie {neg neg' : Bool} {p : ℕ} {e : ℤ}
    (hne : signedScaled neg' (unitsOf p) e ≠ signedScaled neg (n * 2 ^ k) e)
    (he : |signedScaled neg (n * 2 ^ k) e - signedScaled neg (f * 2 ^ k) e| =
      |signedScaled neg' (unitsOf p) e - signedScaled neg (f * 2 ^ k) e|) : n % 2 = 0 := by
  have hpos : (0 : ℚ) < 2 ^ e := by positivity
  have hr : 0 ≤ f * 2 ^ k := mul_nonneg h.nonneg (by positivity)
  obtain ⟨hle, htie⟩ := h.nearest_units p
  rw [abs_signedScaled_sub_same] at he
  by_cases hu : unitsOf p = n * 2 ^ k
  · obtain rfl | hneg := eq_or_ne neg' neg
    · exact absurd (by rw [hu]; push_cast; rfl) hne
    rw [Bool.eq_not_of_ne hneg, abs_signedScaled_sub_not (Nat.cast_nonneg _) hr, hu] at he
    have he := mul_right_cancel₀ hpos.ne' he
    have h0 : |(n * 2 ^ k : ℚ) - f * 2 ^ k| ≤ f * 2 ^ k := by
      simpa [unitsOf, significand, abs_of_nonneg hr] using (h.nearest_units 0).1
    have hn : n * 2 ^ k ≤ 0 := by exact_mod_cast (by linarith : ((n * 2 ^ k : ℕ) : ℚ) ≤ 0)
    obtain rfl : n = 0 := by simpa using hn
    rfl
  · have hge := dist_le_abs_signedScaled_sub (Nat.cast_nonneg (unitsOf p)) hr neg neg' e
    rw [← he] at hge
    exact htie hu (le_antisymm hle (le_of_mul_le_mul_right hge hpos))

theorem RoundsAt.rounded (neg : Bool) : Rounded (signedScaled neg (f * 2 ^ k) (-149))
    (signed32 neg (if infMag ≤ k * 2 ^ 23 + n then infMag else k * 2 ^ 23 + n)) := by
  have hr : 0 ≤ f * 2 ^ k := mul_nonneg h.nonneg (by positivity)
  have hneg (hq : f * 2 ^ k ≠ 0) : signedScaled neg (f * 2 ^ k) (-149) < 0 ↔ neg = true :=
    signedScaled_neg_iff (lt_of_le_of_ne hr hq.symm) ..
  have hbound : |signedScaled neg (f * 2 ^ k) (-149)| < overflowBound ↔ ¬infMag ≤ k * 2 ^ 23 + n := by
    rw [abs_signedScaled hr, overflowBound_eq, mul_lt_mul_iff_of_pos_right (by positivity), ← not_le, h.overflow_iff]
  rw [Rounded]
  by_cases hover : infMag ≤ k * 2 ^ 23 + n
  · have hq : f * 2 ^ k ≠ 0 := by
      have := h.overflow_iff.1 hover
      exact (this.trans_lt' (by norm_num)).ne'
    rw [if_neg (hbound.not.2 (not_not.2 hover)), if_pos hover, signed32_infMag, signedInf]
    simp only [hneg hq]
  · rw [if_pos (hbound.2 hover), if_neg hover]
    have hp : k * 2 ^ 23 + n < 2 ^ 31 := by rw [infMag] at hover; omega
    refine ⟨signedScaled neg (n * 2 ^ k) (-149), ?_, fun v y hv => ?_, fun v y hv hne he => ?_, fun hq => ?_⟩
    · rw [finiteValue_eq_some_iff, magOf_signed32 _ hp, signOf_signed32 _ hp, h.unitsOf_eq]
      exact ⟨not_le.1 hover, by push_cast; rfl⟩
    · obtain ⟨-, rfl⟩ := finiteValue_eq_some_iff.1 hv
      rw [abs_signedScaled_sub_same]
      exact (mul_le_mul_of_nonneg_right (h.nearest_units _).1 (by positivity)).trans
        (dist_le_abs_signedScaled_sub (Nat.cast_nonneg _) hr ..)
    · obtain ⟨-, rfl⟩ := finiteValue_eq_some_iff.1 hv
      have := h.even_of_tie hne he
      rw [signed32_getLsbD_zero, decide_eq_false_iff_not]
      omega
    · have := hneg fun h0 => hq (signedScaled_eq_zero_iff.2 h0)
      rw [← signOf, signOf_signed32 _ hp]
      simp [this]

end

/-- The place `roundFloat` rounds at, and what it rounds there. -/
theorem roundsAt_lastPlace {num den : ℕ} (hn : 0 < num) (hd : 0 < den) (e : ℤ) :
    let x := lastPlace (floorLog2 num den + e)
    RoundsAt (x + 149).toNat (num / den * 2 ^ (e - x)) (roundScaled num den (e - x)) := by
  obtain ⟨hlo, hhi⟩ := floorLog2_bounds hn hd
  intro x
  have hx : x = lastPlace (floorLog2 num den + e) := rfl
  rw [lastPlace] at hx
  refine ⟨roundScaled_nearestEven num hd _, by positivity, ?_, ?_⟩
  · calc (num / den : ℚ) * 2 ^ (e - x) < 2 ^ (floorLog2 num den + 1) * 2 ^ (e - x) := by gcongr
      _ = 2 ^ (floorLog2 num den + 1 + (e - x)) := (zpow_add₀ two_ne_zero ..).symm
      _ ≤ 2 ^ (24 : ℤ) := zpow_le_zpow_right₀ one_le_two (by omega)
      _ = 2 ^ 24 := by norm_num
  · refine or_iff_not_imp_left.2 fun hk => ?_
    calc (2 ^ 23 : ℚ) = 2 ^ (23 : ℤ) := by norm_num
      _ = 2 ^ (floorLog2 num den + (e - x)) := by congr 1; omega
      _ = 2 ^ floorLog2 num den * 2 ^ (e - x) := zpow_add₀ two_ne_zero ..
      _ ≤ num / den * 2 ^ (e - x) := by gcongr

theorem roundFloat_zero (neg : Bool) (den : ℕ) (e : ℤ) : roundFloat neg 0 den e = signedZero neg := by
  rw [roundFloat, if_pos rfl, signed32_zero]

theorem rounded_signedZero (neg : Bool) : Rounded 0 (signedZero neg) := by
  have hzero : RoundsAt 0 0 0 := ⟨by simp [NearestEven], le_rfl, by norm_num, .inl rfl⟩
  simpa [signedScaled, infMag, signed32_zero] using hzero.rounded neg

theorem signedScaled_eq_units (neg : Bool) (r : ℚ) {e x : ℤ} (hx : -149 ≤ x) :
    signedScaled neg r e = signedScaled neg (r * 2 ^ (e - x) * 2 ^ (x + 149).toNat) (-149) := by
  have hscale : (2 : ℚ) ^ e = 2 ^ (e - x) * 2 ^ (x + 149).toNat * 2 ^ (-149 : ℤ) := by
    rw [← zpow_natCast, Int.toNat_of_nonneg (by omega), ← zpow_add₀ two_ne_zero, ← zpow_add₀ two_ne_zero]
    congr 1
    omega
  rw [signedScaled, signedScaled, hscale]
  ring

/-- `roundFloat` rounds the exact result once (R265). -/
theorem rounded_roundFloat (neg : Bool) (num : ℕ) {den : ℕ} (hd : 0 < den) (e : ℤ) :
    Rounded (signedScaled neg (num / den) e) (roundFloat neg num den e) := by
  obtain rfl | hn := Nat.eq_zero_or_pos num
  · simpa [signedScaled, roundFloat_zero] using rounded_signedZero neg
  · rw [roundFloat, if_neg hn.ne', signedScaled_eq_units neg _ (le_max_right (floorLog2 num den + e - 23) (-149))]
    exact (roundsAt_lastPlace hn hd e).rounded neg

/-! ## The results on finite operands (R265, R270 to R273) -/

/-- `w` is the exact result `q` rounded once, with the sign `neg` where `q` is zero. -/
def RoundsSigned (q : ℚ) (neg : Bool) (w : Word) : Prop := Rounded q w ∧ (q = 0 → w = signedZero neg)

theorem roundsSigned_roundFloat (neg : Bool) (num : ℕ) {den : ℕ} (hd : 0 < den) (e : ℤ) :
    RoundsSigned (signedScaled neg (num / den) e) neg (roundFloat neg num den e) := by
  refine ⟨rounded_roundFloat neg num hd e, fun hq => ?_⟩
  have hd' : (den : ℚ) ≠ 0 := by exact_mod_cast hd.ne'
  obtain rfl : num = 0 := by simpa [signedScaled_eq_zero_iff, hd'] using hq
  exact roundFloat_zero ..

theorem signedInt_scaled (neg : Bool) (m : ℕ) {e e' : ℤ} (he : e ≤ e') :
    (signedInt neg (m * 2 ^ (e' - e).toNat) : ℚ) * 2 ^ e = signedScaled neg m e' := by
  have hpow : (2 : ℚ) ^ e' = 2 ^ (e' - e).toNat * 2 ^ e := by
    rw [← zpow_natCast, Int.toNat_of_nonneg (by omega), ← zpow_add₀ two_ne_zero, sub_add_cancel]
  rw [signedScaled, hpow]
  cases neg <;> simp [signedInt, mul_assoc]

theorem signedScaled_natAbs (z : ℤ) (e : ℤ) : signedScaled (decide (z < 0)) z.natAbs e = (z : ℚ) * 2 ^ e := by
  rw [signedScaled, Nat.cast_natAbs, Int.cast_abs]
  by_cases hz : z < 0
  · rw [decide_eq_true hz, abs_of_neg (by exact_mod_cast hz)]
    simp
  · rw [decide_eq_false hz, abs_of_nonneg (by exact_mod_cast not_lt.1 hz)]
    simp

/-- Both operands are scaled to the lesser exponent, where their sum is an integer. -/
theorem roundsSigned_addFinite (na : Bool) (ma : ℕ) (ea : ℤ) (nb : Bool) (mb : ℕ) (eb : ℤ) :
    RoundsSigned (signedScaled na ma ea + signedScaled nb mb eb) (na && nb) (addFinite na ma ea nb mb eb) := by
  rw [← signedInt_scaled na ma (min_le_left ea eb), ← signedInt_scaled nb mb (min_le_right ea eb), ← add_mul,
    ← Int.cast_add, addFinite]
  generalize signedInt na _ + signedInt nb _ = sum
  generalize min ea eb = e
  by_cases hz : sum = 0
  · subst hz
    rw [if_pos rfl, Int.cast_zero, zero_mul, signed32_zero]
    exact ⟨rounded_signedZero _, fun _ => rfl⟩
  · rw [if_neg hz]
    have hround := rounded_roundFloat (decide (sum < 0)) sum.natAbs one_pos e
    rw [Nat.cast_one, div_one, signedScaled_natAbs] at hround
    exact ⟨hround, fun hq => absurd hq (by simp [hz, zpow_ne_zero])⟩

theorem signedScaled_mul (na nb : Bool) (r t : ℚ) (d e : ℤ) :
    signedScaled na r d * signedScaled nb t e = signedScaled (na != nb) (r * t) (d + e) := by
  rw [signedScaled, signedScaled, signedScaled, zpow_add₀ two_ne_zero]
  cases na <;> cases nb <;> simp <;> ring

theorem signedScaled_div (na nb : Bool) (r t : ℚ) (d e : ℤ) :
    signedScaled na r d / signedScaled nb t e = signedScaled (na != nb) (r / t) (d - e) := by
  rw [signedScaled, signedScaled, signedScaled, zpow_sub₀ two_ne_zero]
  cases na <;> cases nb <;> simp <;> ring

theorem neg_signedScaled (neg : Bool) (r : ℚ) (e : ℤ) : -signedScaled neg r e = signedScaled (!neg) r e := by
  cases neg <;> simp [signedScaled]

theorem floatVal_of_finiteValue {w : Word} {x : ℚ} (h : finiteValue w = some x) :
    ∃ m e, floatVal w = .fin (signOf w) m e ∧ x = signedScaled (signOf w) m e := by
  obtain hv | hv | ⟨m, e, hv⟩ := floatVal_cases w <;> rw [finiteValue, hv] at h
  · cases h
  · cases h
  · exact ⟨m, e, hv, (Option.some_inj.1 h).symm⟩

section

variable {a b : Word} {x y : ℚ} (hx : finiteValue a = some x) (hy : finiteValue b = some y)

include hx hy

theorem roundsSigned_adds :
    ∃ w, floatResult .adds a b = some w ∧ RoundsSigned (x + y) (signOf a && signOf b) w := by
  obtain ⟨m, e, ha, rfl⟩ := floatVal_of_finiteValue hx
  obtain ⟨m', e', hb, rfl⟩ := floatVal_of_finiteValue hy
  rw [floatResult, ha, hb]
  exact ⟨_, rfl, roundsSigned_addFinite ..⟩

theorem roundsSigned_subs :
    ∃ w, floatResult .subs a b = some w ∧ RoundsSigned (x - y) (signOf a && !signOf b) w := by
  obtain ⟨m, e, ha, rfl⟩ := floatVal_of_finiteValue hx
  obtain ⟨m', e', hb, rfl⟩ := floatVal_of_finiteValue hy
  rw [floatResult, ha, hb, sub_eq_add_neg, neg_signedScaled]
  exact ⟨_, rfl, roundsSigned_addFinite ..⟩

theorem roundsSigned_mults :
    ∃ w, floatResult .mults a b = some w ∧ RoundsSigned (x * y) (signOf a != signOf b) w := by
  obtain ⟨m, e, ha, rfl⟩ := floatVal_of_finiteValue hx
  obtain ⟨m', e', hb, rfl⟩ := floatVal_of_finiteValue hy
  rw [floatResult, ha, hb, signedScaled_mul]
  refine ⟨_, rfl, ?_⟩
  simpa using roundsSigned_roundFloat (signOf a != signOf b) (m * m') one_pos (e + e')

theorem roundsSigned_divs (hy0 : y ≠ 0) :
    ∃ w, floatResult .divs a b = some w ∧ RoundsSigned (x / y) (signOf a != signOf b) w := by
  obtain ⟨m, e, ha, rfl⟩ := floatVal_of_finiteValue hx
  obtain ⟨m', e', hb, rfl⟩ := floatVal_of_finiteValue hy
  have hm : m' ≠ 0 := fun h0 => hy0 (signedScaled_eq_zero_iff.2 (Nat.cast_eq_zero.2 h0))
  rw [floatResult, ha, hb, signedScaled_div, floatDiv, if_neg hm]
  exact ⟨_, rfl, roundsSigned_roundFloat _ m (Nat.pos_of_ne_zero hm) _⟩

end

/-- Settles O24: the exact result is that of two integers and a power of two, which `roundFloat` rounds once. -/
theorem floatResultsRoundOnce : Obligations.FloatResultsRoundOnce := by
  unfold Obligations.FloatResultsRoundOnce
  rintro s c j fd fs ft a b x y h rfl rfl hx hy
  obtain ⟨_, hadd, radd⟩ := roundsSigned_adds hx hy
  obtain ⟨_, hsub, rsub⟩ := roundsSigned_subs hx hy
  obtain ⟨_, hmul, rmul⟩ := roundsSigned_mults hx hy
  refine ⟨⟨_, exec_finishes_of_aluWord h nofun (congrArg some (floatCompute_of_some hadd _)), radd⟩,
    ⟨_, exec_finishes_of_aluWord h nofun (congrArg some (floatCompute_of_some hsub _)), rsub⟩,
    ⟨_, exec_finishes_of_aluWord h nofun (congrArg some (floatCompute_of_some hmul _)), rmul⟩, fun hy0 => ?_⟩
  obtain ⟨_, hdiv, rdiv⟩ := roundsSigned_divs hx hy hy0
  exact ⟨_, exec_finishes_of_aluWord h nofun (congrArg some (floatCompute_of_some hdiv _)), rdiv⟩

end Sys2Proof.Machine
end

section
/-! PROOFS. The frozen block (60:R301), the cycle count (60:R319), and the step with nothing in flight (70:R331). -/

namespace Sys2Proof.Machine

/-! ## The frozen block -/

/-- Settles O41: `step()` asks for `FAULT = 0` before the cycle. -/
theorem faultedBlockIsFrozen : Obligations.FaultedBlockIsFrozen := by
  unfold Obligations.FaultedBlockIsFrozen
  intro s hs hf
  exact (step_of_runnable hs).trans (if_neg hf)

/-! ## The fault registers and the cycle count -/

/-- From `s` to `t` no cycle was counted, and where `t` has no fault none was raised: the fault registers are those of
`s`. -/
structure State.Uncounted (s t : State) : Prop where
  cycle : t.cycle = s.cycle
  calm : t.fault = .noFault → s.fault = .noFault ∧ t.faultPc = s.faultPc ∧ t.faultAddr = s.faultAddr

namespace State.Uncounted

variable {s t u : State}

theorem trans (h : s.Uncounted t) (h' : t.Uncounted u) : s.Uncounted u where
  cycle := h'.cycle.trans h.cycle
  calm hu := by
    obtain ⟨ht, hp', ha'⟩ := h'.calm hu
    obtain ⟨hs, hp, ha⟩ := h.calm ht
    exact ⟨hs, hp'.trans hp, ha'.trans ha⟩

theorem ofSame (hc : t.cycle = s.cycle) (hf : t.fault = s.fault) (hp : t.faultPc = s.faultPc)
    (ha : t.faultAddr = s.faultAddr) : s.Uncounted t := ⟨hc, fun h => ⟨hf.symm.trans h, hp, ha⟩⟩

theorem ofSameExcept {parts : List Part} (h : s.SameExcept t parts)
    (hn : ∀ p ∈ [Part.cycle, .fault, .faultPc, .faultAddr], p ∉ parts) : s.Uncounted t :=
  .ofSame (h .cycle (hn _ (by decide))) (h .fault (hn _ (by decide))) (h .faultPc (hn _ (by decide)))
    (h .faultAddr (hn _ (by decide)))

theorem withTurn (s : State) (τ : Turn) : s.Uncounted (s.withTurn τ) := .ofSame rfl rfl rfl rfl

theorem refl (s : State) : s.Uncounted s := withTurn s s.turn

theorem raise (s : State) {f : FaultCode} (pc addr : Word) (hf : f ≠ .noFault) : s.Uncounted (s.raise f pc addr) :=
  ⟨rfl, fun h => absurd h hf⟩

theorem popAndCount (s : State) : s.Uncounted s.popAndCount := by
  by_cases hc : s.rob.count = 0
  · rw [State.popAndCount, if_pos hc]
    exact .raise s _ _ (by decide)
  · exact .ofSameExcept (State.popAndCount_sameExcept hc) (by decide)

theorem storeWrite (s : State) : s.Uncounted s.storeWrite := by
  obtain ⟨f, hf, e⟩ | ⟨-, e⟩ := s.storeWrite_cases <;> rw [e]
  · exact .raise s _ _ (accessFault_ne hf).1
  · have hstored : s.Uncounted
        { s with mem := s.mem.writeWord s.headSlot.addr.toNat s.headSlot.value, memBlock := false } :=
      .ofSame rfl rfl rfl rfl
    exact hstored.trans (.popAndCount _)

theorem stampCommit (s : State) : s.Uncounted s.stampCommit := .ofSameExcept s.stampCommit_sameExcept (by decide)

end State.Uncounted

/-! ## The elementary changes of a step -/

theorem CommitOutcome.uncounted {s t : State} (h : CommitOutcome s t) : s.Uncounted t := by
  have hstamp := State.Uncounted.stampCommit s
  have hcount := hstamp.trans (.ofSameExcept s.stampCommit.storeCountdown_sameExcept (by decide))
  cases h with
  | stays => exact .refl s
  | unknown pc => exact .raise s _ _ (by decide)
  | retires hr =>
    exact (hstamp.trans (.ofSameExcept (s.stampCommit.commitReg_sameExcept _) (by decide))).trans (.popAndCount _)
  | squashes hr hb hm =>
    have hcommitted : s.Uncounted { s.stampCommit with committed := s.stampCommit.committed + 1 } :=
      hstamp.trans (.ofSame rfl rfl rfl rfl)
    exact hcommitted.trans (.ofSameExcept (State.squash_sameExcept _ _) (by decide))
  | holds hr => exact hcount
  | stores hr hd => exact hcount.trans (.storeWrite _)

theorem ExecChange.uncounted {s t : State} (h : ExecChange s t) : s.Uncounted t := by
  cases h with
  | turn τ => exact .withTurn s τ
  | raise pc addr hf hu => exact .raise s pc addr hf
  | broadcast hd => exact .ofSameExcept (s.writeResult_sameExcept _ _) (by decide)
  | address k imm st => exact .ofSameExcept (s.generateAddress_sameExcept k imm st) (by decide)
  | startLane ho hi hj => exact .ofSame rfl rfl rfl rfl
  | startBypass v ho hi hj => exact .ofSame rfl rfl rfl rfl
  | count hb hd ht => exact .ofSame rfl rfl rfl rfl
  | finish v m hb hd ht => exact .ofSame rfl rfl rfl rfl
  | laneFault pc addr hb hf hu => exact ⟨rfl, fun h => absurd h hf⟩
  | bypassDone => exact .ofSame rfl rfl rfl rfl

theorem IssueOutcome.uncounted {s t : State} (h : IssueOutcome s t) : s.Uncounted t := by
  cases h with
  | stops => exact .withTurn s _
  | faults pc addr hf hu => exact .raise s pc addr hf
  | @allocates i c k r hi hc hr hk => exact .ofSameExcept (s.allocated_sameExcept i c k r) (by decide)

/-! ## The step -/

theorem beforeIssue_uncounted {s t : State} (h : beforeIssue s = .next t) : s.Uncounted t := by
  obtain ⟨u, hu, hrun⟩ := beforeIssue_run h
  obtain ⟨τ, hcommit⟩ := commitPhase_outcome hu
  exact hrun.keeps (P := s.Uncounted) (fun _ _ hv hc => hv.trans hc.uncounted)
    ((State.Uncounted.withTurn s τ).trans hcommit.uncounted)

theorem issueOne_uncounted {s t : State} (h : issueOne s = .next t) : s.Uncounted t := by
  obtain ⟨τ, h⟩ := issueOne_outcome h
  exact (State.Uncounted.withTurn s τ).trans h.uncounted

theorem issuePhase_uncounted {s t : State} (h : issuePhase s = .next t) : s.Uncounted t :=
  issueLoop_keeps (P := s.Uncounted) (fun _ _ hu h => hu.trans (issueOne_uncounted h)) _ _ t (.withTurn s _) h

/-- A step of an unfaulted block ends with the first fault, uncounted, or with F and the cycle count. -/
theorem step_ends {s t : State} (hs : s.fault = .noFault) (h : step s = .next t) :
    (t.fault ≠ .noFault ∧ s.Uncounted t) ∨ ∃ u : State, u.fault = .noFault ∧ s.Uncounted u ∧ t = u.ended := by
  obtain ⟨v, hv, h⟩ := step_phases hs h
  have hsv : s.Uncounted v := (State.Uncounted.withTurn s Turn.start).trans (beforeIssue_uncounted hv)
  obtain ⟨hf, rfl⟩ | ⟨-, h⟩ := h
  · exact .inl ⟨hf, hsv⟩
  · obtain ⟨u, hu, h⟩ := fromIssue_cases h
    have hsu := hsv.trans (issuePhase_uncounted hu)
    obtain ⟨hf, rfl⟩ | ⟨hf, rfl⟩ := h
    · exact .inl ⟨hf, hsu⟩
    · exact .inr ⟨u, hf, hsu, rfl⟩

/-- Settles O42: no action but the last of the step counts, and each that leaves no fault leaves the fault registers. -/
theorem cycleCountsUnfaultedSteps : Obligations.CycleCountsUnfaultedSteps := by
  unfold Obligations.CycleCountsUnfaultedSteps
  intro s t hs h
  obtain ⟨hf, hst⟩ | ⟨u, hf, hsu, rfl⟩ := step_ends hs h
  · exact ⟨fun hn => absurd hn hf, fun _ => hst.cycle⟩
  · obtain ⟨-, hpc, haddr⟩ := hsu.calm hf
    exact ⟨fun _ => ⟨congrArg (· + 1) hsu.cycle, hpc, haddr⟩, fun hn => absurd hf hn⟩

/-! ## Nothing in flight -/

theorem Config.issueWidth_pos {c : Config} (h : c.wf = true) : 0 < c.issueWidth := by
  simp only [Config.wf, Bool.and_eq_true, decide_eq_true_eq] at h
  omega

/-- Settles O39: an idle block reaches the issue stage unchanged, with an empty ROB, so the step runs the instruction
decoded at its own `pc`. -/
theorem idleStepIssuesAtPc : Obligations.IdleStepIssuesAtPc := by
  unfold Obligations.IdleStepIssuesAtPc
  intro s w i hs hf hidle hw hdec
  have ⟨hcount, _, _, _, hturn⟩ := hidle
  have hstart : s.withTurn Turn.start = s := State.withTurn_self hturn
  have hbefore : beforeIssue (s.withTurn Turn.start) = .next s := hstart.symm ▸ beforeIssue_of_idle hidle
  have hwidth : s.cfg.issueWidth = s.cfg.issueWidth - 1 + 1 := (Nat.sub_add_cancel (Config.issueWidth_pos hs.1)).symm
  have hroom : s.rob.count ≠ s.cfg.robSize := hcount ▸ (Config.robSize_pos hs.1).ne
  have hfirst : s.atPhase (.issue (unpack w)) = s.withTurn { s.turn with phase := .issue (unpack w), issued := 0 } := by
    rw [State.atPhase, hturn]
    rfl
  rw [hfirst]
  exact stepRunsDecodedInstruction s s w i _ hs hf hbefore hf hwidth hroom hw hdec

end Sys2Proof.Machine
end
